-- ==== Sys2Proof/Word.lean ====
section
/-! DEFINITION. The two widths of the machine: the byte the bus moves and the 16-bit address
(20_memory.md R150, R152; 00_scope.md R16 `ADDR_BITS`, `DATA_BITS`). -/

namespace Sys2Proof

/-- One bus transfer, and every 8-bit register (`DATA_BITS = 8`, R16, R152). -/
abbrev Byte := BitVec 8

/-- A CPU and bus address, and the program counter (`ADDR_BITS = 16`, R16, R150). -/
abbrev Word := BitVec 16

end Sys2Proof
end

