-- ==== Sys2Proof/Config.lean ====
section
/-! DEFINITION. The configuration a machine is built from (10_state.md R51, 00_scope.md R16), the
plain data of the chips it may hold (10_state.md R74, 47_scheduler.md section 2, 60_exceptions.md
R915), and the free values the spec leaves open. The configuration is carried in the state and
never changes; a statement over every state is therefore a statement over every configuration. -/

namespace Sys2Proof

/-! ## Mappings, stores and images -/

/-- The kinds of a mapping (R56). -/
inductive MapKind where
  | ram
  | rom
  | ioWindow
deriving DecidableEq, Repr, Inhabited

/-- One entry `{start, length, kind, owner}` of a mapping table (R56). `owner` is a store id for RAM
and ROM and a chip index for an IOWindow. -/
structure Mapping where
  start : Word
  length : Nat
  kind : MapKind
  owner : Nat
deriving DecidableEq, Repr, Inhabited

/-- The kinds of a backing store (R58). -/
inductive StoreKind where
  | ram
  | rom
deriving DecidableEq, Repr, Inhabited

/-- A backing store as configured: its id, kind and size in bytes (R58). -/
structure StoreSpec where
  id : Nat
  kind : StoreKind
  size : Nat
deriving DecidableEq, Repr, Inhabited

/-- An address range `[start, start + length)` (R179, R185). -/
structure AddrRange where
  start : Word
  length : Nat
deriving DecidableEq, Repr, Inhabited

/-- An image-loader tuple `{address_range, initial_bytes}` (R957). -/
structure Image where
  range : AddrRange
  bytes : List Byte
deriving DecidableEq, Repr, Inhabited

/-! ## Chips -/

/-- The reference timer (R915): `latch`, `counter`, `ctrl` with START (bit 0), MODE (bit 1),
IRQEN (bit 2), NMISEL (bit 3), and `evt`. -/
structure RefTimer where
  latch : BitVec 16
  counter : BitVec 16
  ctrl : Byte
  evt : Bool
deriving DecidableEq, Repr, Inhabited

/-- A down-counter of an I/O chip (R712). Its width is the chip's own, so it is a plain count;
`nonMaskable` says which of the chip's two lines reaching zero asserts. -/
structure DownCounter where
  counter : Nat
  reload : Nat
  running : Bool
  oneShot : Bool
  nonMaskable : Bool
deriving DecidableEq, Repr, Inhabited

/-- The part of a chip whose layout the platform defines (R74): its private register bank as a byte
array, and its two output lines (R75). -/
structure ChipCore where
  bank : List Byte
  irq : Bool
  nmi : Bool
deriving DecidableEq, Repr, Inhabited

/-- A video register write recorded for its latch cycle, `{t, offset, v}` (R711). -/
structure LatchedWrite where
  stamp : Nat
  offset : Nat
  value : Byte
deriving DecidableEq, Repr, Inhabited

/-- A register value in the rendering pipeline of a video chip, and the cycle from which it is in effect,
which is `L` of the write it came from (R711). -/
structure PipelineValue where
  offset : Nat
  value : Byte
  since : Nat
deriving DecidableEq, Repr, Inhabited

/-- The raster state of a video chip (R710, R711): `phase`, `frames`, the register values that have
entered the rendering pipeline, the writes that have not, and what the pipeline itself carries from cycle
to cycle. -/
structure VideoState where
  phase : Nat
  frames : Nat
  pipeline : List PipelineValue
  latches : List LatchedWrite
  render : List Byte
deriving DecidableEq, Repr, Inhabited

/-- What the rendering pipeline of a video chip sees in one cycle: the raster position, the register
values that have been latched, and its own bytes; never a write that is not latched yet (R711). -/
structure RasterView where
  line : Nat
  column : Nat
  frames : Nat
  pipeline : List Host.Cell
  render : List Byte
deriving DecidableEq, Repr, Inhabited

/-- A peripheral chip, one variant of the closed set of chip kinds (R700). `other` is a chip of no
kind the source names more closely, such as a DMA-style cartridge (R731). -/
inductive Chip where
  | refTimer (timer : RefTimer)
  | video (raster : VideoState) (core : ChipCore)
  | io (timers : List DownCounter) (core : ChipCore)
  | disk (remainder : Nat) (core : ChipCore)
  | audio (core : ChipCore)
  | other (core : ChipCore)
deriving DecidableEq, Repr, Inhabited

/-- The phase counters of a chip (R74, R164): the raster's (R710), the timers of an I/O chip (R712), the
bit-cell remainder of a disk controller (R713). A chip has those of its kind. -/
structure Counters where
  phase : Nat
  frames : Nat
  timers : List DownCounter
  remainder : Nat
deriving DecidableEq, Repr, Inhabited

/-- A chip as configured: its kind, its parameters (`FRAME_CYCLES`, `LINE_CYCLES`, R710;
`BITCELL_NUM`, `BITCELL_DEN`, R713) and the chip-defined power-on state of its timers and its core
(R707). -/
inductive ChipSpec where
  | refTimer
  | video (frameCycles lineCycles : Nat) (core : ChipCore)
  | io (timers : List DownCounter) (core : ChipCore)
  | disk (bitcellNum bitcellDen : Nat) (core : ChipCore)
  | audio (core : ChipCore)
  | other (core : ChipCore)
deriving DecidableEq, Repr, Inhabited

/-- What a handler or one tick cycle of a chip may do besides answering (R164, R705, R709, R731,
R180): its core afterwards, stall requests, bank-switch requests and output events. The cycle of a
request is counted from the cycle of the access or tick cycle that emits it, so that a chip's
behaviour reads no clock (R703). -/
structure Reaction where
  core : ChipCore
  /-- `(from_cycle - now, duration)` of each stall request. -/
  stalls : List (Int × Nat)
  /-- `(effective_cycle - now, bank table index)` of each bank-switch request. -/
  switches : List (Int × Nat)
  /-- Pixel, sync or sample values (R709); their encoding is the chip's. -/
  events : List Int
deriving DecidableEq, Repr, Inhabited

/-- What a register handler does besides answering (R164): a reaction, and the chip's phase counters
afterwards. -/
structure Handled where
  reaction : Reaction
  counters : Counters
deriving DecidableEq, Repr, Inhabited

/-- A bus access a granted chip makes in one cycle of its stall round (R733). -/
inductive ChipAccess where
  | read (addr : Word)
  | write (addr : Word) (value : Byte)
deriving DecidableEq, Repr, Inhabited

/-! ## The configuration -/

/-- The two interrupt classes (R742). -/
inductive IrqClass where
  | irq
  | nmi
deriving DecidableEq, Repr, Inhabited

/-- The "fully-resolved, strongly-typed configuration struct" (R51) with the parameters of R16. -/
structure MachineConfig where
  openBusValue : Byte
  aneMagic : Byte
  lxaMagic : Byte
  validateBus : Bool
  shxPageQuirk : Bool
  irqClasses : List IrqClass
  chips : List ChipSpec
  chipOrder : List Nat
  stores : List StoreSpec
  powerOnMaps : List Mapping
  bankTables : List (List Mapping)
  requiredRanges : List AddrRange
  imagesPowerOn : List Image
  imagesReset : List Image
  snapVersion : BitVec 32
  snapHeaderBytes : Nat
deriving DecidableEq, Repr

namespace Config

/-! ## Parameters the spec fixes (R16) -/

/-- `NMI_VECTOR` (R16, R178). -/
def nmiVector : Word := 0xFFFA#16

/-- `RESET_VECTOR` (R16, R178). -/
def resetVector : Word := 0xFFFC#16

/-- `IRQ_VECTOR`, also BRK's (R16, R178). -/
def irqVector : Word := 0xFFFE#16

/-- `RAM_INIT_VALUE`: what every store byte holds before the image loader writes (R16, R82, D17). -/
def ramInitValue : Byte := 0x00#8

/-- `JAM_STEP_CYCLES` (R16, R305). -/
def jamStepCycles : Nat := 1

/-- The first cycle count the clock cannot hold: `CLOCK_BITS = 64` (R16, R54). -/
def clockLimit : Nat := 2 ^ 64

/-- The first value a stall duration cannot hold: `CYCLES_BITS = 32` (R16, R78). -/
def durationLimit : Nat := 2 ^ 32

/-! ## Free values: what the spec leaves OPEN or chip-defined -/

/-- FREE VALUE: `OPEN_BUS_VALUE` of the machine `resetMachine` (R162, log entry 1). -/
opaque openBusValue : Byte

/-- FREE VALUE: `ANE_MAGIC` of the machine `resetMachine` (R640, log entry 1). -/
opaque aneMagic : Byte

/-- FREE VALUE: `LXA_MAGIC` of the machine `resetMachine` (R641, log entry 1). -/
opaque lxaMagic : Byte

/-- FREE VALUE: what a reference timer answers at an offset its register map does not list (R916 lists 0
to 3; log entry 8), which only a window longer than R915 gives it can reach (log entry 26). -/
opaque refTimerUnlisted : Nat → Byte

/-- FREE VALUE: the bus value of a window whose owner is no chip, which no checked configuration has
(R955 `BadMapping`; log entry 8). -/
opaque ownerlessRead : Nat → Byte

/-- FREE VALUE: a chip's `register_read(offset, t)`: chip index, chip, offset, cycle stamp (R164, R700,
R706; log entry 7). -/
opaque coreRead : Nat → Chip → Nat → Nat → Byte × Handled

/-- FREE VALUE: a chip's `register_write(offset, v, t)` (R164, R700, R706; log entry 7). -/
opaque coreWrite : Nat → Chip → Nat → Byte → Nat → Handled

/-- FREE VALUE: the addresses a chip other than a video chip peeks in one tick cycle: chip index, chip,
granted (R188, R703; log entry 7). -/
opaque corePeeks : Nat → Chip → Bool → List Word

/-- FREE VALUE: the bus access a granted chip other than a video chip makes in one cycle of its round,
from what it peeked (R733; log entry 7). -/
opaque coreAccess : Nat → Chip → List Byte → Option ChipAccess

/-- FREE VALUE: one tick cycle of a chip: chip index, chip, granted, the bytes it peeked and the byte
its granted read returned (R701 to R704; log entry 7). -/
opaque coreCycle : Nat → Chip → Bool → List Byte → Option Byte → Reaction

/-- FREE VALUE: the addresses a video chip peeks in one tick cycle (R188, R703, R711; log entry 7). -/
opaque videoPeeks : Nat → RasterView → Bool → List Word

/-- FREE VALUE: the bus access a granted video chip makes in one cycle of its round (R733, R711; log
entry 7). -/
opaque videoAccess : Nat → RasterView → List Byte → Option ChipAccess

/-- FREE VALUE: one cycle of the rendering pipeline: what it carries on and the output events of the
cycle (R709, R711; log entry 7). -/
opaque videoRender : Nat → RasterView → Bool → List Byte → Option Byte → List Byte × List Int

/-- FREE VALUE: the output events of a video chip's read handler: chip index, what its rendering pipeline
sees at the cycle of the access, offset, cycle stamp (R164, R709, R711; log entry 7). -/
opaque videoReadEvents : Nat → RasterView → Nat → Nat → List Int

/-- FREE VALUE: the output events of a video chip's write handler. The written value reaches them only
through the pipeline, once it is latched (R164, R709, R711; log entry 7). -/
opaque videoWriteEvents : Nat → RasterView → Nat → Nat → List Int

/-- FREE VALUE: how many cycles after a write at `t` the video chip latches register `offset`
(`L(t, offset) = t + delay`, never before `t`); `none` for a register whose `L` is not given (R711; log
entry 7). -/
opaque latchDelay : Nat → Nat → Nat → Option Nat

/-- FREE VALUE: one bit cell of the disk controller (R713; log entry 7). -/
opaque diskCell : Nat → Chip → Reaction

/-- FREE VALUE: what a down-counter at 0 counts to next, its width being the chip's (R712; log entry
7). -/
opaque counterBelowZero : Nat → DownCounter → Nat

/-- FREE VALUE: the chip-defined part of a chip after a reset (R707; log entry 7). -/
opaque resetCore : Nat → Chip → ChipCore

/-- FREE VALUE: a chip's phase counters after a reset (R707; log entry 7). -/
opaque resetCounters : Nat → Chip → Counters

/-- FREE VALUE: a video chip's rendering pipeline after a reset: latched values, pending writes and what
it carries on (R707; log entry 7). -/
opaque resetPipeline : Nat → Chip → List Host.Cell × List LatchedWrite × List Byte

/-- FREE VALUE: the layout of the snapshot payload of chip `i` (R820), as a bijection from the fields of
the chip written one after the other (`chipBytes`, Machine/Snapshot.lean) to its payload, so that
`load_state` undoes `save_state` (R800, R850); log entry 7. -/
opaque chipLayout : Nat → Equiv.Perm (List Byte)

/-! ## The machine State.reset builds -/

/-- The configuration of `State.reset`: the machine of 95_test_vectors.md section 0, one RAM store of
65,536 bytes mapped over the whole address space, no chip, the production bus, and the spec's
defaults. DESIGN CHOICE, log entry 2; the three OPEN bytes stay free. -/
def resetMachine : MachineConfig where
  openBusValue := openBusValue
  aneMagic := aneMagic
  lxaMagic := lxaMagic
  validateBus := false
  shxPageQuirk := true
  irqClasses := [.irq, .nmi]
  chips := []
  chipOrder := []
  stores := [{ id := 0, kind := .ram, size := 0x10000 }]
  powerOnMaps := [{ start := 0#16, length := 0x10000, kind := .ram, owner := 0 }]
  bankTables := []
  requiredRanges := [{ start := 0xFFFA#16, length := 6 }]
  imagesPowerOn := []
  imagesReset := []
  snapVersion := 1#32
  snapHeaderBytes := 4

end Config

end Sys2Proof
end

