-- ==== Sys2Proof/Machine/Bits.lean ====
section
/-! DEFINITION. Byte order, sign extension and little-endian integers: the notation of 00_scope.md
R17 and R18, the byte order of 20_memory.md R170 and the integers of 48_snapshot.md R805. -/

namespace Sys2Proof.Machine

/-- `hi:lo`, the 16-bit value `hi * 256 + lo` (R17). -/
def mkWord (hi lo : Byte) : Word := hi ++ lo

/-- Bits 15:8 of an address (R17). -/
def hiByte (w : Word) : Byte := w.extractLsb' 8 8

/-- Bits 7:0 of an address (R17). -/
def loByte (w : Word) : Byte := w.extractLsb' 0 8

/-- `zext_16` (R18): a zero-page address. -/
def zext16 (b : Byte) : Word := b.setWidth 16

/-- `sext_16` (R18): bit 7 copied into bits 15:8. -/
def sext16 (b : Byte) : Word := b.signExtend 16

/-- One bit as a byte, for carries. -/
def bitByte (b : Bool) : Byte := if b then 1#8 else 0#8

/-- The `n` low bytes of `v`, low byte first (R805). -/
def leBytes : Nat → Nat → List Byte
  | 0, _ => []
  | n + 1, v => BitVec.ofNat 8 v :: leBytes n (v / 256)

/-- The unsigned integer of a little-endian byte sequence (R805). -/
def leValue : List Byte → Nat
  | [] => 0
  | b :: bs => b.toNat + 256 * leValue bs

end Sys2Proof.Machine
end

