-- ==== Sys2Proof/Machine/Memory.lean ====
section
/-! DEFINITION. Memory: the canonical cell lists the backing stores hold (10_state.md R58), the
mapping table and its resolution (20_memory.md R153, R154), the mapping operations (R185) and the
image loader (70_reset_and_hazards.md R957). -/

namespace Sys2Proof.Machine

/-- The bytes of one backing store, by offset: strictly rising offsets, and no entry equal to what an
unlisted offset reads as. -/
abbrev Memory := List Host.Cell

namespace Memory

/-- What an offset no entry lists reads as: `RAM_INIT_VALUE` (R16, R82, R950, D17). -/
def unlisted : Byte := Config.ramInitValue

/-- The byte at offset `x`. -/
def read : Memory → Nat → Byte
  | [], _ => unlisted
  | (a, v) :: m, x => if x = a then v else read m x

/-- Storing `v` at offset `x`, in canonical form. -/
def write : Memory → Nat → Byte → Memory
  | [], x, v => if v = unlisted then [] else [(x, v)]
  | (a, w) :: m, x, v =>
    if x < a then (if v = unlisted then (a, w) :: m else (x, v) :: (a, w) :: m)
    else if x = a then (if v = unlisted then m else (a, v) :: m)
    else (a, w) :: write m x v

/-- Canonical from offset `lo` on. -/
def wfFrom : Nat → Memory → Bool
  | _, [] => true
  | lo, (a, v) :: m => decide (lo ≤ a) && decide (v ≠ unlisted) && wfFrom (a + 1) m

/-- The canonical form: strictly rising offsets and no entry equal to `unlisted`. -/
def wf (m : Memory) : Bool := wfFrom 0 m

/-- The `n` bytes from offset `off` on, as a byte array (R812). -/
def bytesFrom (m : Memory) : Nat → Nat → List Byte
  | _, 0 => []
  | off, n + 1 => read m off :: bytesFrom m (off + 1) n

/-- The canonical memory of a byte array whose first byte is at `off` (R812). -/
def ofBytesFrom : Nat → List Byte → Memory
  | _, [] => []
  | off, b :: bs =>
    if b = unlisted then ofBytesFrom (off + 1) bs else (off, b) :: ofBytesFrom (off + 1) bs

end Memory

/-- A backing store `{id, kind, bytes : u8[size]}` (R58). -/
structure Store where
  id : Nat
  kind : StoreKind
  size : Nat
  bytes : Memory
deriving DecidableEq, Repr

/-- The byte at offset `off` of store `id`; a store that is not there reads as an unlisted byte. -/
def storesRead (stores : List Store) (id off : Nat) : Byte :=
  match stores.find? (fun st => st.id == id) with
  | some st => st.bytes.read off
  | none => Memory.unlisted

/-- Stores `v` at offset `off` of store `id`. -/
def storesWrite : List Store → Nat → Nat → Byte → List Store
  | [], _, _, _ => []
  | st :: rest, id, off, v =>
    if st.id = id then { st with bytes := st.bytes.write off v } :: rest
    else st :: storesWrite rest id off v

/-- The stores of a configuration at construction, every byte `RAM_INIT_VALUE` (R950), in increasing
id order (R812). -/
def insertStore (st : Store) : List Store → List Store
  | [] => [st]
  | t :: rest => if st.id ≤ t.id then st :: t :: rest else t :: insertStore st rest

/-- The stores a configuration builds (R950). -/
def initialStores : List StoreSpec → List Store
  | [] => []
  | sp :: rest =>
    insertStore { id := sp.id, kind := sp.kind, size := sp.size, bytes := [] } (initialStores rest)

end Sys2Proof.Machine

namespace Sys2Proof

/-- Whether address `a` lies in `[start, start + length)` (R153). -/
def Mapping.covers (m : Mapping) (a : Word) : Bool :=
  decide (m.start.toNat ≤ a.toNat) && decide (a.toNat < m.start.toNat + m.length)

/-- The byte or register offset of `a` in the mapping's owner (R154). -/
def Mapping.offset (m : Mapping) (a : Word) : Nat := a.toNat - m.start.toNat

/-- The range a mapping covers. -/
def Mapping.range (m : Mapping) : AddrRange := { start := m.start, length := m.length }

/-- Whether two ranges share an address (R57, R185). -/
def AddrRange.intersects (r q : AddrRange) : Bool :=
  decide (max r.start.toNat q.start.toNat
    < min (r.start.toNat + r.length) (q.start.toNat + q.length))

/-- Whether `r` lies inside `q` (R185). -/
def AddrRange.inside (r q : AddrRange) : Bool :=
  decide (q.start.toNat ≤ r.start.toNat)
    && decide (r.start.toNat + r.length ≤ q.start.toNat + q.length)

end Sys2Proof

namespace Sys2Proof.Machine

/-- `resolve(a)` (R153): the entry of the table that covers `a`. -/
def resolve (maps : List Mapping) (a : Word) : Option Mapping := maps.find? (fun m => m.covers a)

/-- Where a resolved address leads (R154). -/
inductive Target where
  | store (kind : StoreKind) (id off : Nat)
  | chip (index off : Nat)
  | unmapped
deriving DecidableEq, Repr

/-- What address `a` selects under a mapping table (R153, R154). -/
def target (maps : List Mapping) (a : Word) : Target :=
  match resolve maps a with
  | none => .unmapped
  | some m =>
    match m.kind with
    | .ram => .store .ram m.owner (m.offset a)
    | .rom => .store .rom m.owner (m.offset a)
    | .ioWindow => .chip m.owner (m.offset a)

/-- Whether a mapping table's ranges are pairwise disjoint (R57). -/
def mapsDisjoint : List Mapping → Bool
  | [] => true
  | m :: rest => rest.all (fun q => !(m.range.intersects q.range)) && mapsDisjoint rest

/-- `install_mapping(range, backing)` (R185): every entry that intersects the range goes, then the new
entry is added, at the end of the table (log entry 25, DESIGN CHOICE: R185 says only that it inserts the
entry, and the place shows in the table order of a snapshot, R811). -/
def installMapping (maps : List Mapping) (m : Mapping) : List Mapping :=
  maps.filter (fun q => !(q.range.intersects m.range)) ++ [m]

/-- `remove_mapping(range)` (R185): the entries wholly inside the range go. -/
def removeMapping (maps : List Mapping) (r : AddrRange) : List Mapping :=
  maps.filter (fun q => !(q.range.inside r))

/-- One byte of an image, stored where the power-on table puts its address (R957). It is no bus
access: RAM and ROM take it alike, and no handler runs. -/
def applyImageByte (table : List Mapping) (stores : List Store) (a : Word) (v : Byte) : List Store :=
  match target table a with
  | .store _ id off => storesWrite stores id off v
  | .chip _ _ => stores
  | .unmapped => stores

/-- The bytes of an image from address `a` on (R957). -/
def applyImageBytes (table : List Mapping) : List Store → Word → List Byte → List Store
  | stores, _, [] => stores
  | stores, a, v :: vs => applyImageBytes table (applyImageByte table stores a v) (a + 1#16) vs

/-- Image-loader tuples in list order, a later one overwriting an earlier one (R957). -/
def applyImages (table : List Mapping) : List Store → List Image → List Store
  | stores, [] => stores
  | stores, im :: rest =>
    applyImages table (applyImageBytes table stores im.range.start im.bytes) rest

end Sys2Proof.Machine
end

