-- ==== Sys2Proof/Machine/Chips.lean ====
section
/-! DEFINITION. What a peripheral chip is by itself: its power-on and reset states, its lines, the
reference timer whole (60_exceptions.md R915 to R922), and the parts of the video, I/O and disk
chips the spec gives (47_scheduler.md R710 to R713). What needs the bus is in Bus.lean. -/

namespace Sys2Proof.Machine

/-! ## The reference timer -/

/-- Power-on and reset state of the reference timer (R922). -/
def refTimerInit : RefTimer :=
  { latch := 0xFFFF#16, counter := 0xFFFF#16, ctrl := 0x00#8, evt := false }

/-- START, bit 0 of `ctrl` (R915). -/
def timerStart (t : RefTimer) : Bool := t.ctrl.getLsbD 0

/-- MODE, bit 1 of `ctrl`: one-shot when 1 (R915). -/
def timerOneShot (t : RefTimer) : Bool := t.ctrl.getLsbD 1

/-- IRQEN, bit 2 of `ctrl` (R915). -/
def timerIrqEn (t : RefTimer) : Bool := t.ctrl.getLsbD 2

/-- NMISEL, bit 3 of `ctrl` (R915). -/
def timerNmiSel (t : RefTimer) : Bool := t.ctrl.getLsbD 3

/-- One cycle of the reference timer (R918). -/
def refTimerCycle (t : RefTimer) : RefTimer :=
  if timerStart t then
    let c := t.counter - 1#16
    if c = 0#16 then
      if timerOneShot t then { t with counter := c, evt := true, ctrl := t.ctrl &&& 0xFE#8 }
      else { t with counter := t.latch, evt := true }
    else { t with counter := c }
  else t

/-- `n` cycles of the reference timer (R918, R702). -/
def refTimerTick : Nat → RefTimer → RefTimer
  | 0, t => t
  | n + 1, t => refTimerTick n (refTimerCycle t)

/-- A register read: the byte and the timer afterwards (R916, R917, R921). -/
def refTimerRead (t : RefTimer) (offset : Nat) : Byte × RefTimer :=
  match offset with
  | 0 => (loByte t.counter, t)
  | 1 => (hiByte t.counter, t)
  | 2 => (t.ctrl &&& 0x0F#8, t)
  | 3 => (bitByte t.evt, { t with evt := false })
  | n => (Config.refTimerUnlisted n, t)

/-- A register write (R916, R917). -/
def refTimerWrite (t : RefTimer) (offset : Nat) (v : Byte) : RefTimer :=
  match offset with
  | 0 => { t with latch := mkWord (hiByte t.latch) v }
  | 1 => { t with latch := mkWord v (loByte t.latch) }
  | 2 => { t with
      ctrl := v &&& 0x0F#8,
      counter := if v.getLsbD 4 then t.latch else t.counter }
  | _ => t

/-! ## Down-counters of an I/O chip -/

/-- One cycle of a down-counter (R712). -/
def downCounterCycle (index : Nat) (d : DownCounter) : DownCounter :=
  if d.running then
    let c := match d.counter with
      | 0 => Config.counterBelowZero index d
      | n + 1 => n
    if c = 0 then
      if d.oneShot then { d with counter := 0, running := false }
      else { d with counter := d.reload }
    else { d with counter := c }
  else d

/-- Whether this cycle brings a down-counter to zero (R712). -/
def downCounterExpires (index : Nat) (d : DownCounter) : Bool :=
  d.running && (match d.counter with
    | 0 => Config.counterBelowZero index d == 0
    | n + 1 => n == 0)

/-- Whether this cycle brings a down-counter of the given line to zero (R712). -/
def countersExpire (index : Nat) (nonMaskable : Bool) (timers : List DownCounter) : Bool :=
  timers.any (fun d => downCounterExpires index d && d.nonMaskable == nonMaskable)

/-! ## The video chip's raster -/

/-- `line = phase div LINE_CYCLES` (R710). -/
def rasterLine (lineCycles : Nat) (v : VideoState) : Nat := v.phase / lineCycles

/-- `column = phase mod LINE_CYCLES` (R710). -/
def rasterColumn (lineCycles : Nat) (v : VideoState) : Nat := v.phase % lineCycles

/-- One cycle of the raster: the phase advances by one and wraps after `FRAME_CYCLES - 1`, and
`frames` counts the wraps in 64 bits (R710). -/
def rasterAdvance (frameCycles : Nat) (v : VideoState) : VideoState :=
  if v.phase + 1 < frameCycles then { v with phase := v.phase + 1 }
  else { v with phase := 0, frames := (v.frames + 1) % 2 ^ 64 }

/-- `L(t, offset)`, the cycle at which a recorded write enters the pipeline: never before it was made, and
at once for a register whose `L` is not given (R711). -/
def latchCycle (index : Nat) (w : LatchedWrite) : Nat :=
  match Config.latchDelay index w.stamp w.offset with
  | some delay => w.stamp + delay
  | none => w.stamp

/-- A value enters the pipeline, one for each register, in increasing offset. A value in effect from a later
cycle stays; of two in effect from one cycle the one that enters last does (R711). -/
def enterPipeline (p : PipelineValue) : List PipelineValue → List PipelineValue
  | [] => [p]
  | q :: rest =>
    if p.offset < q.offset then p :: q :: rest
    else if p.offset = q.offset then (if q.since ≤ p.since then p :: rest else q :: rest)
    else q :: enterPipeline p rest

/-- What a recorded write puts in the pipeline (R711). -/
def latchedValue (index : Nat) (w : LatchedWrite) : PipelineValue :=
  { offset := w.offset, value := w.value, since := latchCycle index w }

/-- The recorded writes whose latch cycle has come enter the pipeline: each register takes the value with
the latest latch cycle, and among equal ones the write recorded last (R711). -/
def rasterLatch (index cycle : Nat) (v : VideoState) : VideoState :=
  let due := v.latches.filter (fun w => decide (latchCycle index w ≤ cycle))
  { v with
    latches := v.latches.filter (fun w => !(decide (latchCycle index w ≤ cycle))),
    pipeline := due.foldl (fun p w => enterPipeline (latchedValue index w) p) v.pipeline }

/-- What the rendering pipeline sees of the raster (R711). -/
def rasterView (lineCycles : Nat) (v : VideoState) : RasterView :=
  { line := rasterLine lineCycles v, column := rasterColumn lineCycles v, frames := v.frames,
    pipeline := v.pipeline.map (fun p => (p.offset, p.value)), render := v.render }

/-! ## The disk controller's bit cells -/

/-- `q div BITCELL_DEN` of one cycle, with `q = r + BITCELL_NUM` (R713). -/
def diskCells (num den remainder : Nat) : Nat := (remainder + num) / den

/-- The remainder one cycle leaves, `q mod BITCELL_DEN` (R713). -/
def diskRemainder (num den remainder : Nat) : Nat := (remainder + num) % den

/-! ## Every chip -/

/-- The configuration of chip `i`, the reference timer where there is none. -/
def specOf (c : MachineConfig) (i : Nat) : ChipSpec :=
  match c.chips[i]? with
  | some sp => sp
  | none => .refTimer

/-- A chip's power-on state (R707, R710, R922). -/
def chipPowerOn : ChipSpec → Chip
  | .refTimer => .refTimer refTimerInit
  | .video _ _ core =>
    .video { phase := 0, frames := 0, pipeline := [], latches := [], render := [] } core
  | .io timers core => .io timers core
  | .disk _ _ core => .disk 0 core
  | .audio core => .audio core
  | .other core => .other core

/-- `FRAME_CYCLES` of a configured chip, 0 where it is no video chip (R710). -/
def specFrameCycles : ChipSpec → Nat
  | .video f _ _ => f
  | .refTimer | .io _ _ | .disk _ _ _ | .audio _ | .other _ => 0

/-- `LINE_CYCLES` of a configured chip, 0 where it is no video chip (R710). -/
def specLineCycles : ChipSpec → Nat
  | .video _ l _ => l
  | .refTimer | .io _ _ | .disk _ _ _ | .audio _ | .other _ => 0

/-- `(BITCELL_NUM, BITCELL_DEN)` of a configured chip (R713). -/
def specBitcell : ChipSpec → Nat × Nat
  | .disk num den _ => (num, den)
  | .refTimer | .video _ _ _ | .io _ _ | .audio _ | .other _ => (0, 1)

/-- A chip with its phase counters set, the raster's and the bit cells' within their ranges (R164, R710,
R713). -/
def setCounters (spec : ChipSpec) (k : Counters) : Chip → Chip
  | .refTimer t => .refTimer t
  | .video v core =>
    .video { v with phase := k.phase % specFrameCycles spec, frames := k.frames % 2 ^ 64 } core
  | .io _ core => .io k.timers core
  | .disk _ core => .disk (k.remainder % (specBitcell spec).2) core
  | .audio core => .audio core
  | .other core => .other core

/-- A chip with its chip-defined part replaced. -/
def chipWithCore (core : ChipCore) : Chip → Chip
  | .refTimer t => .refTimer t
  | .video v _ => .video v core
  | .io timers _ => .io timers core
  | .disk r _ => .disk r core
  | .audio _ => .audio core
  | .other _ => .other core

/-- A chip with the rendering pipeline it has after a reset, where it is a video chip (R707). Its values are in
effect before every write that is still to be latched. -/
def resetRaster (index : Nat) : Chip → Chip
  | .video v core =>
    let p := Config.resetPipeline index (.video v core)
    let values := p.1.map (fun c => { offset := c.1, value := c.2, since := 0 : PipelineValue })
    .video { v with
      pipeline := values.foldl (fun l q => enterPipeline q l) []
      latches := p.2.1
      render := p.2.2 } core
  | .refTimer t => .refTimer t
  | .io timers core => .io timers core
  | .disk r core => .disk r core
  | .audio core => .audio core
  | .other core => .other core

/-- `reset()` of a chip (R707, R922): the reference timer's is given, the others' are chip-defined,
within the ranges of R710 and R713. -/
def chipReset (spec : ChipSpec) (index : Nat) : Chip → Chip
  | .refTimer _ => .refTimer refTimerInit
  | chip => chipWithCore (Config.resetCore index chip)
      (setCounters spec (Config.resetCounters index chip) (resetRaster index chip))

/-- `irq_out` (R75, R919). -/
def chipIrq : Chip → Bool
  | .refTimer t => t.evt && timerIrqEn t && !timerNmiSel t
  | .video _ core => core.irq
  | .io _ core => core.irq
  | .disk _ core => core.irq
  | .audio core => core.irq
  | .other core => core.irq

/-- `nmi_out` (R75, R919). -/
def chipNmi : Chip → Bool
  | .refTimer t => t.evt && timerIrqEn t && timerNmiSel t
  | .video _ core => core.nmi
  | .io _ core => core.nmi
  | .disk _ core => core.nmi
  | .audio core => core.nmi
  | .other core => core.nmi

/-- Lines asserted besides those a core asserts already (R712). -/
def assertLines (irq nmi : Bool) (core : ChipCore) : ChipCore :=
  { core with irq := core.irq || irq, nmi := core.nmi || nmi }

/-- What a chip's register handler at cycle `t` does besides changing its own state (R164). A video chip's
output events are `emit` of what its rendering pipeline sees with every write whose latch cycle has come by
`t`: events of a cycle before `L` use the old value, events from `L` on the new one (R711; log entry 16). -/
def handlerReaction (spec : ChipSpec) (i t : Nat) (emit : RasterView → List Int) : Chip → Reaction → Reaction
  | .video v _, r => { r with events := emit (rasterView (specLineCycles spec) (rasterLatch i t v)) }
  | .refTimer _, r | .io _ _, r | .disk _ _, r | .audio _, r | .other _, r => r

/-- The addresses a chip peeks in one tick cycle (R188); a video chip's are those of its rendering
pipeline, which sees latched registers alone (R711). -/
def chipPeeks (spec : ChipSpec) (i : Nat) (granted : Bool) : Chip → List Word
  | .video v _ => Config.videoPeeks i (rasterView (specLineCycles spec) v) granted
  | chip => Config.corePeeks i chip granted

/-- The bus access a granted chip makes in one cycle (R733). -/
def chipAccess (spec : ChipSpec) (i : Nat) (peeked : List Byte) : Chip → Option ChipAccess
  | .video v _ => Config.videoAccess i (rasterView (specLineCycles spec) v) peeked
  | chip => Config.coreAccess i chip peeked

/-- The chip-defined part of one tick cycle (R701, R703): the chip and its reaction. It may change the
chip's core and a video chip's rendering pipeline, whose output events are the cycle's (R711); the phase
counters it leaves alone. -/
def chipTick (spec : ChipSpec) (i : Nat) (granted : Bool) (peeked : List Byte) (got : Option Byte) :
    Chip → Chip × Reaction
  | .video v core =>
    let out := Config.videoRender i (rasterView (specLineCycles spec) v) granted peeked got
    let chip := Chip.video { v with render := out.1 } core
    (chip, { Config.coreCycle i chip granted peeked got with events := out.2 })
  | chip => (chip, Config.coreCycle i chip granted peeked got)

/-- Whether a chip is of the kind a configuration gives it (R700) and has its fields in their ranges: the
reference timer's `ctrl` has four bits (R915), the raster's phase is below `FRAME_CYCLES` and its frames
are a `u64` (R710), the bit-cell remainder is below `BITCELL_DEN` (R713). -/
def chipInRange : ChipSpec → Chip → Bool
  | .refTimer, .refTimer t => t.ctrl &&& 0xF0#8 == 0#8
  | .video frame _ _, .video v _ => decide (v.phase < frame) && decide (v.frames < 2 ^ 64)
  | .io _ _, .io _ _ => true
  | .disk _ den _, .disk r _ => decide (r < den)
  | .audio _, .audio _ => true
  | .other _, .other _ => true
  | _, _ => false

end Sys2Proof.Machine
end

