-- ==== Sys2Proof/Machine/State.lean ====
section
/-! DEFINITION. The machine state `{clock, bus, cpu, chips, sched}` (10_state.md R50) with every field
the spec gives it, the configuration it was built from (R51), the cycle index of a step in progress
(00_scope.md R21), the access history and output sink an observer sees (R166, R709), the faults and
refusals, and the power-on state (R82, R950). -/

namespace Sys2Proof.Machine

/-- The direction of a bus access (R163, R166). -/
inductive Direction where
  | read
  | write
deriving DecidableEq, Repr

/-- The kinds of a bus access (R166). -/
inductive AccessKind where
  | opcode
  | operand
  | pointer
  | data
  | stack
  | vector
  | dummy
deriving DecidableEq, Repr

/-- Who performs a bus access (R188, R735). -/
inductive Performer where
  | cpu
  | chip (index : Nat)
deriving DecidableEq, Repr

/-- One record of the access history, `{dir, addr, value, kind, at}`, and its performer (R166, R188). -/
structure AccessRecord where
  dir : Direction
  addr : Word
  value : Byte
  kind : AccessKind
  stamp : Nat
  performer : Performer
deriving DecidableEq, Repr

/-- One output event of a chip: its cycle and its chip-defined code (R709). -/
structure OutputEvent where
  chip : Nat
  cycle : Nat
  code : Int
deriving DecidableEq, Repr

/-- The two faults of the spec (R900). A fault is recorded in `sched.fault` by the iteration that
meets it, whose earlier effects stay (R905); `step` then answers it for every later step, since no
agent steps any more. Safe: the spec itself stops the machine there. -/
inductive Fault where
  /-- Raised by a bus access of the CPU or of a granted chip to an unmapped address while
  `VALIDATE_BUS` is true (R163). Safe: the spec raises it. -/
  | unmappedAddressError (dir : Direction) (addr : Word) (cycle : Nat)
  /-- Raised by `advance` when the clock would pass `2^64 - 1` (R54). Safe: the spec raises it. -/
  | clockOverflow (cycle : Nat)
deriving DecidableEq, Repr

/-- The refusals. No meaning of this model refuses. -/
inductive Refusal where
  /-- An instruction with no meaning yet: raised by an arm of `exec` only, and by none now. Safe. -/
  | notModelled (mnemonic : String)
deriving DecidableEq, Repr

/-- The CPU core: registers and flags (R60 to R66) and internal state (R69 to R72). -/
structure Cpu where
  a : Byte
  x : Byte
  y : Byte
  s : Byte
  pc : Word
  flagN : Bool
  flagV : Bool
  flagD : Bool
  flagI : Bool
  flagZ : Bool
  flagC : Bool
  resetPending : Bool
  jammed : Bool
  irqIn : Bool
  nmiIn : Bool
  nmiPrev : Bool
  nmiPending : Bool
deriving DecidableEq, Repr

/-- A pending bank switch `{effective_cycle, new_maps}`, the table named by its index (R59, R180). -/
structure BankSwitch where
  effectiveCycle : Nat
  table : Nat
deriving DecidableEq, Repr

/-- A mapping event of the image loader: a cartridge inserted or removed (R59, R184). -/
inductive MapEvent where
  | install (mapping : Mapping)
  | remove (range : AddrRange)
deriving DecidableEq, Repr

/-- The bus (R56 to R59). -/
structure Bus where
  maps : List Mapping
  stores : List Store
  pendingSwitches : List BankSwitch
  pendingExternal : List MapEvent
deriving DecidableEq, Repr

/-- `sched.state` (R77, R715). -/
inductive RunState where
  | idle
  | running
  | paused
  | stopped
deriving DecidableEq, Repr

/-- A bus stall request `{from_cycle, duration, chip}` (R78). -/
structure Stall where
  fromCycle : Nat
  duration : Nat
  chip : Nat
deriving DecidableEq, Repr

/-- The host requests not yet honoured (R80). -/
structure HostReq where
  pause : Bool
  reset : Bool
  powerOff : Bool
deriving DecidableEq, Repr

/-- The scheduler (R77 to R81). -/
structure Sched where
  run : RunState
  stalls : List Stall
  irqRes : Bool
  nmiRes : Bool
  hostReq : HostReq
  fault : Option Fault
deriving DecidableEq, Repr

/-- The machine. `cycle` is the cycle index `k` of the step in progress, 0 between steps (R21);
`history` and `sink` are what an observer sees, newest last, and no rule reads them (R166, R709). -/
structure State where
  config : MachineConfig
  clock : Nat
  bus : Bus
  cpu : Cpu
  chips : List Chip
  sched : Sched
  cycle : Nat
  history : List AccessRecord
  sink : List OutputEvent
deriving DecidableEq, Repr

/-- No host request (R950). -/
def HostReq.clear : HostReq := { pause := false, reset := false, powerOff := false }

/-- The CPU at power-on: `POWER_ON_REGS`, PC 0, and the reset sequence pending (R82, D19). -/
def Cpu.powerOn : Cpu where
  a := 0x00#8
  x := 0x00#8
  y := 0x00#8
  s := 0x00#8
  pc := 0x0000#16
  flagN := false
  flagV := false
  flagD := false
  flagI := false
  flagZ := false
  flagC := false
  resetPending := true
  jammed := false
  irqIn := false
  nmiIn := false
  nmiPrev := false
  nmiPending := false

/-- The machine a configuration builds, before anything has run (R950, R82). `construct`
(Machine/Construct.lean) checks the configuration first. -/
def State.powerOn (c : MachineConfig) : State where
  config := c
  clock := 0
  bus :=
    { maps := c.powerOnMaps
      stores := applyImages c.powerOnMaps (initialStores c.stores) c.imagesPowerOn
      pendingSwitches := []
      pendingExternal := [] }
  cpu := Cpu.powerOn
  chips := c.chips.map chipPowerOn
  sched :=
    { run := .idle, stalls := [], irqRes := false, nmiRes := false, hostReq := HostReq.clear,
      fault := none }
  cycle := 0
  history := []
  sink := []

/-- The machine right after power-on (R82's power-on column, R951), built from
`Config.resetMachine`. -/
def State.reset : State := State.powerOn Config.resetMachine

/-- What a step answers. -/
abbrev Result := Host.Outcome State Fault Refusal

/-- A part of a step: it reads and changes the state, and where it meets a fault it stops with the
state as it stood (R23, R905). -/
abbrev M := EStateM Fault State

end Sys2Proof.Machine
end

