-- ==== Sys2Proof/Machine/Bus.lean ====
section
/-! DEFINITION. The bus: the named updates of the state, the chips' register handlers as the bus calls
them (47_scheduler.md R706), `MemRead` and `MemWrite` (20_memory.md R160, R161) and the side-effect
free `peek` (R188). -/

namespace Sys2Proof.Machine

/-! ## Named updates -/

/-- A change of the CPU's own fields (R73). -/
def State.mapCpu (s : State) (f : Cpu → Cpu) : State := { s with cpu := f s.cpu }

/-- One more cycle of the step in progress (R21). -/
def State.tickCycle (s : State) : State := { s with cycle := s.cycle + 1 }

/-- The cycle index of the step in progress, set (R21). -/
def State.setCycle (s : State) (k : Nat) : State := { s with cycle := k }

/-- One more record of the access history (R166). -/
def State.record (s : State) (r : AccessRecord) : State := { s with history := s.history ++ [r] }

/-- Chip `i`, replaced. -/
def State.setChip (s : State) (i : Nat) (c : Chip) : State := { s with chips := s.chips.set i c }

/-- One byte of a backing store, written (R154, R161). -/
def State.storeWrite (s : State) (id off : Nat) (v : Byte) : State :=
  { s with bus := { s.bus with stores := storesWrite s.bus.stores id off v } }

/-- A fault, recorded (R81, R905). -/
def State.raise (s : State) (f : Fault) : State := { s with sched := { s.sched with fault := some f } }

/-! ## Reading one byte without an access -/

/-- The byte at offset `off` of store `id`. -/
def State.storeByte (s : State) (id off : Nat) : Byte := storesRead s.bus.stores id off

/-- What an address selects now (R153, R154). -/
def State.target (s : State) (a : Word) : Target := Machine.target s.bus.maps a

/-- `peek(a)` (R188): the store byte of a RAM or ROM address, `OPEN_BUS_VALUE` for any other, no side
effect and no record. -/
def State.peek (s : State) (a : Word) : Byte :=
  match s.target a with
  | .store _ id off => s.storeByte id off
  | .chip _ _ => s.config.openBusValue
  | .unmapped => s.config.openBusValue

/-! ## What a chip's reaction does to the machine -/

/-- The cycle `base + offset` of a request, as a `u64` (R59, R78). -/
def requestCycle (base : Nat) (offset : Int) : Nat := (Int.ofNat base + offset).toNat % Config.clockLimit

/-- The stall requests of a reaction of chip `i` at cycle `base`; duration 0 is discarded (R731). -/
def emittedStalls (i base : Nat) (rs : List (Int × Nat)) : List Stall :=
  (rs.map (fun r =>
    { fromCycle := requestCycle base r.1, duration := r.2 % Config.durationLimit, chip := i : Stall })).filter
    (fun st => st.duration != 0)

/-- The bank-switch requests of a reaction at cycle `base`, each for a table of the configured set
(R180). -/
def emittedSwitches (tables base : Nat) (rs : List (Int × Nat)) : List BankSwitch :=
  (rs.map (fun r => { effectiveCycle := requestCycle base r.1, table := r.2 : BankSwitch })).filter
    (fun b => decide (b.table < tables))

/-- What a chip's handler or tick cycle did, at cycle `base`: the chip with its own core, the queues and its
output sink (R164, R731, R180, R709). -/
def State.react (s : State) (i base : Nat) (chip : Chip) (r : Reaction) : State :=
  { s with
    chips := s.chips.set i (chipWithCore r.core chip)
    bus := { s.bus with
      pendingSwitches := s.bus.pendingSwitches
        ++ emittedSwitches s.config.bankTables.length base r.switches }
    sched := { s.sched with stalls := s.sched.stalls ++ emittedStalls i base r.stalls }
    sink := s.sink ++ r.events.map (fun e => { chip := i, cycle := base, code := e }) }

/-! ## Register handlers -/

/-- `chips[i].register_read(offset, t)` (R706, R916): the byte and the machine afterwards. -/
def registerRead (i offset t : Nat) (s : State) : Byte × State :=
  match s.chips[i]? with
  | none => (Config.ownerlessRead offset, s)
  | some (.refTimer tm) =>
    let (v, tm') := refTimerRead tm offset
    (v, s.setChip i (.refTimer tm'))
  | some chip =>
    let (v, h) := Config.coreRead i chip offset t
    let spec := specOf s.config i
    (v, s.react i t (setCounters spec h.counters chip)
      (handlerReaction spec i t (fun view => Config.videoReadEvents i view offset t) chip h.reaction))

/-- A video register write waits for its latch cycle (R711); another chip's acts through its handler
alone. -/
def recordLatch (offset t : Nat) (v : Byte) : Chip → Chip
  | .video raster core =>
    .video { raster with latches := raster.latches ++ [{ stamp := t, offset := offset, value := v }] } core
  | c => c

/-- `chips[i].register_write(offset, v, t)` (R706, R711, R916). -/
def registerWrite (i offset t : Nat) (v : Byte) (s : State) : State :=
  match s.chips[i]? with
  | none => s
  | some (.refTimer tm) => s.setChip i (.refTimer (refTimerWrite tm offset v))
  | some chip =>
    let h := Config.coreWrite i chip offset v t
    let spec := specOf s.config i
    let written := recordLatch offset t v chip
    s.react i t (setCounters spec h.counters written)
      (handlerReaction spec i t (fun view => Config.videoWriteEvents i view offset t) written h.reaction)

/-! ## Bus accesses -/

/-- `MemRead(a, 1)` at cycle `t` (R160). -/
def busRead (p : Performer) (kind : AccessKind) (t : Nat) (a : Word) : M Byte := fun s =>
  match s.target a with
  | .store _ id off =>
    let v := s.storeByte id off
    .ok v (s.record { dir := .read, addr := a, value := v, kind := kind, stamp := t, performer := p })
  | .chip i off =>
    let r := registerRead i off t s
    .ok r.1 (r.2.record
      { dir := .read, addr := a, value := r.1, kind := kind, stamp := t, performer := p })
  | .unmapped =>
    if s.config.validateBus then .error (.unmappedAddressError .read a t) s
    else .ok s.config.openBusValue (s.record
      { dir := .read, addr := a, value := s.config.openBusValue, kind := kind, stamp := t, performer := p })

/-- `MemWrite(a, 1, v)` at cycle `t` (R161): a write to ROM or to an unmapped address of a production
machine changes nothing. -/
def busWrite (p : Performer) (kind : AccessKind) (t : Nat) (a : Word) (v : Byte) : M Unit := fun s =>
  let rec' : AccessRecord :=
    { dir := .write, addr := a, value := v, kind := kind, stamp := t, performer := p }
  match s.target a with
  | .store .ram id off => .ok () ((s.storeWrite id off v).record rec')
  | .store .rom _ _ => .ok () (s.record rec')
  | .chip i off => .ok () ((registerWrite i off t v s).record rec')
  | .unmapped =>
    if s.config.validateBus then .error (.unmappedAddressError .write a t) s
    else .ok () (s.record rec')

end Sys2Proof.Machine
end

