-- ==== Sys2Proof/Machine/Flags.lean ====
section
/-! DEFINITION. What instructions compute on the registers and flags, as functions of the CPU record
alone: the helpers of 00_scope.md R22, the shared arithmetic of 42_arithmetic_logic.md R450 to R452
and the operations of files 41 to 45. Every read-modify-write operation gives the byte it stores. -/

namespace Sys2Proof.Machine

/-- `SetNZ(v)` (R22). -/
def Cpu.setNZ (v : Byte) (c : Cpu) : Cpu := { c with flagN := v.msb, flagZ := v == 0#8 }

/-- `A <- v` and `SetNZ(A)`. -/
def Cpu.loadA (v : Byte) (c : Cpu) : Cpu := { c with a := v }.setNZ v

/-- `X <- v` and `SetNZ(X)`. -/
def Cpu.loadX (v : Byte) (c : Cpu) : Cpu := { c with x := v }.setNZ v

/-- `Y <- v` and `SetNZ(Y)`. -/
def Cpu.loadY (v : Byte) (c : Cpu) : Cpu := { c with y := v }.setNZ v

/-- `Pbyte(b)`: bit 7 N, 6 V, 5 constant 1, 4 the break bit, 3 D, 2 I, 1 Z, 0 C (R66). -/
def Cpu.pByte (b : Bool) (c : Cpu) : Byte :=
  (((((((BitVec.ofBool c.flagN ++ BitVec.ofBool c.flagV) ++ 1#1) ++ BitVec.ofBool b)
    ++ BitVec.ofBool c.flagD) ++ BitVec.ofBool c.flagI) ++ BitVec.ofBool c.flagZ)
    ++ BitVec.ofBool c.flagC)

/-- A byte loaded into the six flags, bits 5 and 4 ignored (R66). -/
def Cpu.setP (p : Byte) (c : Cpu) : Cpu :=
  { c with
    flagN := p.getLsbD 7
    flagV := p.getLsbD 6
    flagD := p.getLsbD 3
    flagI := p.getLsbD 2
    flagZ := p.getLsbD 1
    flagC := p.getLsbD 0 }

/-! ## Addition, subtraction, comparison -/

/-- The binary case of `AddCore` (R450). -/
def Cpu.addBinary (m : Byte) (c : Cpu) : Cpu :=
  let t : Nat := c.a.toNat + m.toNat + c.flagC.toNat
  let r : Byte := BitVec.ofNat 8 t
  { c with
    flagV := (~~~(c.a ^^^ m) &&& (c.a ^^^ r) &&& 0x80#8) != 0#8
    flagC := decide (t > 0xFF)
    a := r }.setNZ r

/-- The NMOS decimal case of `AddCore` (R450): Z from the binary sum, N and V from the value before
the high-digit adjustment. -/
def Cpu.addDecimal (m : Byte) (c : Cpu) : Cpu :=
  let av : Nat := c.a.toNat
  let mv : Nat := m.toNat
  let cv : Nat := c.flagC.toNat
  let lo₀ : Nat := (av &&& 0x0F) + (mv &&& 0x0F) + cv
  let lo : Nat := if lo₀ > 0x09 then lo₀ + 0x06 else lo₀
  let t : Nat := (lo &&& 0x0F) + (av &&& 0xF0) + (mv &&& 0xF0) + (if lo > 0x0F then 0x10 else 0)
  let t' : Nat := if (t &&& 0x1F0) > 0x90 then t + 0x60 else t
  { c with
    flagZ := (av + mv + cv) % 256 == 0
    flagN := t.testBit 7
    flagV := (((av ^^^ t) &&& 0x80) != 0) && (((av ^^^ mv) &&& 0x80) == 0)
    flagC := decide ((t' &&& 0xFF0) > 0xF0)
    a := BitVec.ofNat 8 t' }

/-- `AddCore(M)` (R450), the addition of ADC and RRA. -/
def Cpu.addCore (m : Byte) (c : Cpu) : Cpu := if c.flagD then c.addDecimal m else c.addBinary m

/-- The difference `A - M - (1 - C)` modulo 2^16 (R451). -/
def Cpu.subDiff (m : Byte) (c : Cpu) : BitVec 16 :=
  c.a.setWidth 16 - m.setWidth 16 - (bitByte (!c.flagC)).setWidth 16

/-- The byte `SubCore` stores in decimal mode (R451). -/
def Cpu.subDecimalResult (m : Byte) (c : Cpu) : Byte :=
  let a : BitVec 16 := c.a.setWidth 16
  let mv : BitVec 16 := m.setWidth 16
  let b : BitVec 16 := (bitByte (!c.flagC)).setWidth 16
  let lo := (a &&& 0x0F#16) - (mv &&& 0x0F#16) - b
  let hi := (a &&& 0xF0#16) - (mv &&& 0xF0#16)
  let r := if lo &&& 0x10#16 ≠ 0#16 then ((lo - 0x06#16) &&& 0x0F#16) ||| (hi - 0x10#16)
    else (lo &&& 0x0F#16) ||| hi
  let r' := if r &&& 0x100#16 ≠ 0#16 then r - 0x60#16 else r
  r'.setWidth 8

/-- `SubCore(M)` (R451), the subtraction of SBC, ISC and USBC: the flags are the binary difference's in
both modes. -/
def Cpu.subCore (m : Byte) (c : Cpu) : Cpu :=
  let t := c.subDiff m
  let r : Byte := t.setWidth 8
  { c with
    flagC := decide (t.toNat < 0x100)
    flagV := (((c.a ^^^ r) &&& 0x80#8) != 0#8) && (((c.a ^^^ m) &&& 0x80#8) != 0#8)
    a := if c.flagD then c.subDecimalResult m else r }.setNZ r

/-- `Compare(r, M)` (R452). -/
def Cpu.compare (r m : Byte) (c : Cpu) : Cpu :=
  { c with flagC := decide (m.toNat ≤ r.toNat) }.setNZ (r - m)

/-! ## Read-class operations of files 41 and 42 -/

/-- `A <- A & M` (R455). -/
def Cpu.andOp (m : Byte) (c : Cpu) : Cpu := c.loadA (c.a &&& m)

/-- `A <- A | M` (R456). -/
def Cpu.oraOp (m : Byte) (c : Cpu) : Cpu := c.loadA (c.a ||| m)

/-- `A <- A ^ M` (R457). -/
def Cpu.eorOp (m : Byte) (c : Cpu) : Cpu := c.loadA (c.a ^^^ m)

/-- BIT (R458): Z from `A & M`, N and V from the memory byte. -/
def Cpu.bitOp (m : Byte) (c : Cpu) : Cpu :=
  { c with flagZ := (c.a &&& m) == 0#8, flagN := m.getLsbD 7, flagV := m.getLsbD 6 }

/-- CMP (R459). -/
def Cpu.cmpOp (m : Byte) (c : Cpu) : Cpu := c.compare c.a m

/-- CPX (R460). -/
def Cpu.cpxOp (m : Byte) (c : Cpu) : Cpu := c.compare c.x m

/-- CPY (R461). -/
def Cpu.cpyOp (m : Byte) (c : Cpu) : Cpu := c.compare c.y m

/-! ## Read-modify-write operations -/

/-- ASL (R468). -/
def Cpu.aslOp (v : Byte) (c : Cpu) : Byte × Cpu :=
  let r := v <<< 1
  (r, { c with flagC := v.getLsbD 7 }.setNZ r)

/-- LSR (R469). -/
def Cpu.lsrOp (v : Byte) (c : Cpu) : Byte × Cpu :=
  let r := v >>> 1
  (r, { c with flagC := v.getLsbD 0 }.setNZ r)

/-- ROL: the old C enters bit 0 (R470). -/
def Cpu.rolOp (v : Byte) (c : Cpu) : Byte × Cpu :=
  let r := (v <<< 1) ||| bitByte c.flagC
  (r, { c with flagC := v.getLsbD 7 }.setNZ r)

/-- ROR: the old C enters bit 7 (R471). -/
def Cpu.rorOp (v : Byte) (c : Cpu) : Byte × Cpu :=
  let r := (v >>> 1) ||| (bitByte c.flagC <<< 7)
  (r, { c with flagC := v.getLsbD 0 }.setNZ r)

/-- INC (R462). -/
def Cpu.incOp (v : Byte) (c : Cpu) : Byte × Cpu := (v + 1#8, c.setNZ (v + 1#8))

/-- DEC (R463). -/
def Cpu.decOp (v : Byte) (c : Cpu) : Byte × Cpu := (v - 1#8, c.setNZ (v - 1#8))

/-! ## Undocumented operations (45_undocumented.md)

A combined read-modify-write operation has two parts: the byte stored and the carry it leaves, before
the final write (R330), and what combining that byte with A does afterwards. -/

/-- The shift of SLO: `C <- M[7]`, `f(M) <- M << 1` (R621). -/
def Cpu.sloShift (v : Byte) (c : Cpu) : Byte × Cpu := (v <<< 1, { c with flagC := v.getLsbD 7 })

/-- The rotate of RLA (R622). -/
def Cpu.rlaShift (v : Byte) (c : Cpu) : Byte × Cpu :=
  ((v <<< 1) ||| bitByte c.flagC, { c with flagC := v.getLsbD 7 })

/-- The shift of SRE (R623). -/
def Cpu.sreShift (v : Byte) (c : Cpu) : Byte × Cpu := (v >>> 1, { c with flagC := v.getLsbD 0 })

/-- The rotate of RRA (R624). -/
def Cpu.rraShift (v : Byte) (c : Cpu) : Byte × Cpu :=
  ((v >>> 1) ||| (bitByte c.flagC <<< 7), { c with flagC := v.getLsbD 0 })

/-- The decrement of DCP, which writes no flag by itself (R625). -/
def Cpu.dcpStep (v : Byte) (c : Cpu) : Byte × Cpu := (v - 1#8, c)

/-- The increment of ISC, which writes no flag by itself (R626). -/
def Cpu.iscStep (v : Byte) (c : Cpu) : Byte × Cpu := (v + 1#8, c)

/-- LAX (R628). -/
def Cpu.laxOp (m : Byte) (c : Cpu) : Cpu := { c with a := m, x := m }.setNZ m

/-- LAS (R630). -/
def Cpu.lasOp (m : Byte) (c : Cpu) : Cpu :=
  let r := m &&& c.s
  { c with a := r, x := r, s := r }.setNZ r

/-- ANC (R633). -/
def Cpu.ancOp (m : Byte) (c : Cpu) : Cpu :=
  let c' := c.loadA (c.a &&& m)
  { c' with flagC := c'.flagN }

/-- ALR (R634). -/
def Cpu.alrOp (m : Byte) (c : Cpu) : Cpu :=
  let t := c.a &&& m
  { c with flagC := t.getLsbD 0 }.loadA (t >>> 1)

/-- ARR with D clear (R636). -/
def Cpu.arrBinary (m : Byte) (c : Cpu) : Cpu :=
  let t := c.a &&& m
  let r := (bitByte c.flagC <<< 7) ||| (t >>> 1)
  { c with flagC := r.getLsbD 6, flagV := r.getLsbD 6 ^^ r.getLsbD 5, a := r }.setNZ r

/-- ARR with D set, the NMOS decimal form (R636). -/
def Cpu.arrDecimal (m : Byte) (c : Cpu) : Cpu :=
  let t := c.a &&& m
  let r := (bitByte c.flagC <<< 7) ||| (t >>> 1)
  let lowFix := decide ((t &&& 0x0F#8).toNat + (t &&& 0x01#8).toNat > 0x05)
  let r₁ := if lowFix then (r &&& 0xF0#8) ||| ((r + 0x06#8) &&& 0x0F#8) else r
  let highFix := decide ((t &&& 0xF0#8).toNat + (t &&& 0x10#8).toNat > 0x50)
  let r₂ := if highFix then (r₁ &&& 0x0F#8) ||| ((r₁ + 0x60#8) &&& 0xF0#8) else r₁
  { c with
    flagN := c.flagC
    flagZ := r == 0#8
    flagV := (r ^^^ t).getLsbD 6
    flagC := highFix
    a := r₂ }

/-- ARR (R636). -/
def Cpu.arrOp (m : Byte) (c : Cpu) : Cpu := if c.flagD then c.arrDecimal m else c.arrBinary m

/-- SBX: a comparison's subtraction, without borrow in and whatever D is (R637). -/
def Cpu.sbxOp (m : Byte) (c : Cpu) : Cpu :=
  let t := c.a &&& c.x
  { c with flagC := decide (m.toNat ≤ t.toNat) }.loadX (t - m)

/-- ANE with the machine's constant (R640). -/
def Cpu.aneOp (magic m : Byte) (c : Cpu) : Cpu := c.loadA ((c.a ||| magic) &&& c.x &&& m)

/-- LXA with the machine's constant (R641). -/
def Cpu.lxaOp (magic m : Byte) (c : Cpu) : Cpu :=
  let r := (c.a ||| magic) &&& m
  { c with a := r, x := r }.setNZ r

end Sys2Proof.Machine
end

