-- ==== Sys2Proof/Machine/Ops.lean ====
section
/-! DEFINITION. The CPU's own operations on the bus: the helper primitives of 00_scope.md R20 to R22,
taking an interrupt or BRK (60_exceptions.md R880, 43_control_flow.md R540) and returning from one
(R537, R882), and the reset sequence (40_cpu_step.md R304). -/

namespace Sys2Proof.Machine

/-! ## Primitives -/

/-- The CPU record now. -/
def getCpu : M Cpu := fun s => .ok s.cpu s

/-- The configuration (R51). -/
def getConfig : M MachineConfig := fun s => .ok s.config s

/-- A change of the CPU's own fields. -/
def updCpu (f : Cpu → Cpu) : M Unit := fun s => .ok () (s.mapCpu f)

/-- A computation on the CPU's own fields that also gives a byte. -/
def stepCpu (f : Cpu → Byte × Cpu) : M Byte := fun s => .ok (f s.cpu).1 (s.mapCpu fun c => (f c).2)

/-- `MemRead(addr, 1)` of the CPU, in cycle `now + k`, then `k <- k + 1` (R20, R21). -/
def memRead (kind : AccessKind) (a : Word) : M Byte := fun s =>
  match busRead .cpu kind (s.clock + s.cycle) a s with
  | .ok v s' => .ok v s'.tickCycle
  | .error f s' => .error f s'

/-- `MemWrite(addr, 1, v)` of the CPU (R20, R21). -/
def memWrite (kind : AccessKind) (a : Word) (v : Byte) : M Unit := fun s =>
  match busWrite .cpu kind (s.clock + s.cycle) a v s with
  | .ok _ s' => .ok () s'.tickCycle
  | .error f s' => .error f s'

/-- `Dummy(addr)`: a read whose value is discarded (R20). -/
def dummyRead (a : Word) : M Unit := do
  let _ ← memRead .dummy a

/-- `DummyW(addr, v)`: the unmodified write of a read-modify-write (R20, R330). -/
def dummyWrite (a : Word) (v : Byte) : M Unit := memWrite .dummy a v

/-- `Dummy(PC)` (R311). -/
def dummyPc : M Unit := do
  let c ← getCpu
  dummyRead c.pc

/-- A read at PC, then `PC <- PC + 1`. -/
def fetchKind (kind : AccessKind) : M Byte := do
  let c ← getCpu
  let v ← memRead kind c.pc
  updCpu fun c => { c with pc := c.pc + 1#16 }
  pure v

/-- `Fetch()` of an operand byte (R22, R310). -/
def fetch : M Byte := fetchKind .operand

/-- `PC <- target`. -/
def jumpTo (t : Word) : M Unit := updCpu fun c => { c with pc := t }

/-- The stack address `0x0100 + S` (R63). -/
def stackAddr (s : Byte) : Word := 0x0100#16 + zext16 s

/-- `Dummy(0x0100 + S)` (R332). -/
def dummyStack : M Unit := do
  let c ← getCpu
  dummyRead (stackAddr c.s)

/-- `Push(v)` (R22). -/
def push (v : Byte) : M Unit := do
  let c ← getCpu
  memWrite .stack (stackAddr c.s) v
  updCpu fun c => { c with s := c.s - 1#8 }

/-- `Pull()` (R22). -/
def pull : M Byte := do
  updCpu fun c => { c with s := c.s + 1#8 }
  let c ← getCpu
  memRead .stack (stackAddr c.s)

/-- The outcome of an instruction's part of a step: always a next state, with the fault recorded where
the bus raised one (R400, R905). -/
def outcome (p : M Unit) (s : State) : Result :=
  match p s with
  | .ok _ s' => .next s'
  | .error f s' => .next (s'.raise f)

/-! ## Taking an interrupt, and returning -/

/-- The cycles every interrupt and BRK share (R540, R880): PC pushed high byte first, then the status
byte with the given break bit, I set, and PC loaded from the vector. -/
def takeException (breakBit : Bool) (vector : Word) : M Unit := do
  let c ← getCpu
  push (hiByte c.pc)
  push (loByte c.pc)
  let c ← getCpu
  push (c.pByte breakBit)
  updCpu fun c => { c with flagI := true }
  let lo ← memRead .vector vector
  let hi ← memRead .vector (vector + 1#16)
  jumpTo (mkWord hi lo)

/-- The interrupts a step may take (R870). -/
inductive Interrupt where
  | nmi
  | irq
deriving DecidableEq, Repr

/-- The vector of an interrupt (R870). -/
def interruptVector : Interrupt → Word
  | .nmi => Config.nmiVector
  | .irq => Config.irqVector

/-- `InterruptEntry(kind)` (R880): two reads at PC, the NMI latch cleared by an NMI, and the shared
cycles with B = 0. -/
def interruptEntry (i : Interrupt) : M Unit := do
  dummyPc
  dummyPc
  updCpu fun c => { c with nmiPending := match i with
    | .nmi => false
    | .irq => c.nmiPending }
  takeException false (interruptVector i)

/-- Returning from an interrupt: the six flags and PC are pulled, with no 1 added (R537, R882). -/
def returnFromException : M Unit := do
  let p ← pull
  updCpu (Cpu.setP p)
  let lo ← pull
  let hi ← pull
  jumpTo (mkWord hi lo)

/-! ## The reset sequence -/

/-- A stack-page read in place of a push: S is decremented and nothing is written (R304). -/
def resetPush : M Unit := do
  dummyStack
  updCpu fun c => { c with s := c.s - 1#8 }

/-- `ResetSequence` (R304). -/
def resetSequence : M Unit := do
  dummyPc
  dummyPc
  resetPush
  resetPush
  resetPush
  updCpu fun c => { c with flagI := true }
  let lo ← memRead .vector Config.resetVector
  let hi ← memRead .vector (Config.resetVector + 1#16)
  updCpu fun c => { c with
    pc := mkWord hi lo, resetPending := false, jammed := false, nmiPending := false }

/-- `JammedIdle` (R305): no access, no register change, `JAM_STEP_CYCLES` cycles. -/
def jammedIdle : M Unit := fun s => .ok () (s.setCycle Config.jamStepCycles)

end Sys2Proof.Machine
end

