-- ==== Sys2Proof/Machine/Operands.lean ====
section
/-! DEFINITION. The addressing-mode bus templates of 40_cpu_step.md section 2 (R310 to R340), each from
the cycle after the operand bytes were fetched: `b1` is the operand byte of a two-byte instruction
and `w = b2:b1` the operand word of a three-byte one (30_encoding.md R251). -/

namespace Sys2Proof.Machine

/-! ## Index additions -/

/-- What adding an index to a base address gives (R256, R258): the effective address, the unfixed
address the CPU reads first, whether the addition crosses a page, and the base's high byte (R644). -/
structure Indexed where
  ea : Word
  unfixed : Word
  cross : Bool
  high : Byte
deriving DecidableEq, Repr

/-- `t <- base[7:0] + R; U <- base[15:8]:(t mod 256); EA <- (base + R) mod 2^16; cross <- t > 0xFF`
(R256, R258, R320, R322). -/
def indexed (base : Word) (r : Byte) : Indexed where
  ea := base + zext16 r
  unfixed := mkWord (hiByte base) (loByte base + r)
  cross := decide (0xFF < (loByte base).toNat + r.toNat)
  high := hiByte base

/-- The pointer of the `(zp,X)` mode: one dummy read, then its two bytes in page zero (R257, R321). -/
def pointerX (b1 : Byte) : M Word := do
  let c ← getCpu
  dummyRead (zext16 b1)
  let q := b1 + c.x
  let lo ← memRead .pointer (zext16 q)
  let hi ← memRead .pointer (zext16 (q + 1#8))
  pure (mkWord hi lo)

/-- The pointer of the `(zp),Y` mode: its two bytes in page zero (R258, R322). -/
def pointerY (b1 : Byte) : M Word := do
  let lo ← memRead .pointer (zext16 b1)
  let hi ← memRead .pointer (zext16 (b1 + 1#8))
  pure (mkWord hi lo)

/-! ## The effective address of a write or a read-modify-write

Each performs the template's accesses before the data access and gives the address. -/

/-- `zp` (R253, R313). -/
def addrZp (b1 : Byte) : M Word := pure (zext16 b1)

/-- `zpx`: the unindexed address is read first, and the sum stays in page zero (R254, R314). -/
def addrZpx (b1 : Byte) : M Word := do
  let c ← getCpu
  dummyRead (zext16 b1)
  pure (zext16 (b1 + c.x))

/-- `zpy` (R254, R314). -/
def addrZpy (b1 : Byte) : M Word := do
  let c ← getCpu
  dummyRead (zext16 b1)
  pure (zext16 (b1 + c.y))

/-- `abs` (R255, R315). -/
def addrAbs (w : Word) : M Word := pure w

/-- An indexed address of a write or read-modify-write, whose unfixed address is always read (R320,
R322, R331). -/
def addrIndexed (ix : Indexed) : M Word := do
  dummyRead ix.unfixed
  pure ix.ea

/-- `absx` (R256, R320). -/
def addrAbsx (w : Word) : M Word := do
  let c ← getCpu
  addrIndexed (indexed w c.x)

/-- `absy` (R256, R320). -/
def addrAbsy (w : Word) : M Word := do
  let c ← getCpu
  addrIndexed (indexed w c.y)

/-- `indx` (R257, R321). -/
def addrIndx (b1 : Byte) : M Word := pointerX b1

/-- `indy` (R258, R322). -/
def addrIndy (b1 : Byte) : M Word := do
  let c ← getCpu
  let p ← pointerY b1
  addrIndexed (indexed p c.y)

/-! ## The data byte of a read -/

/-- `imm`: the operand byte itself (R252, R312). -/
def readImm (b1 : Byte) : M Byte := pure b1

/-- The data read at a template's address. -/
def readAt (ea : M Word) : M Byte := do
  let a ← ea
  memRead .data a

/-- `zp`, 3 cycles (R313). -/
def readZp (b1 : Byte) : M Byte := readAt (addrZp b1)

/-- `zpx`, 4 cycles (R314). -/
def readZpx (b1 : Byte) : M Byte := readAt (addrZpx b1)

/-- `zpy`, 4 cycles (R314). -/
def readZpy (b1 : Byte) : M Byte := readAt (addrZpy b1)

/-- `abs`, 4 cycles (R315). -/
def readAbs (w : Word) : M Byte := readAt (addrAbs w)

/-- `indx`, 6 cycles (R321). -/
def readIndx (b1 : Byte) : M Byte := readAt (addrIndx b1)

/-- An indexed read: at the unfixed address, and once more at the effective one on a page crossing
(R320, R322). -/
def readIndexed (ix : Indexed) : M Byte := do
  let m ← memRead .data ix.unfixed
  if ix.cross then memRead .data ix.ea else pure m

/-- `absx`, 4 or 5 cycles (R320). -/
def readAbsx (w : Word) : M Byte := do
  let c ← getCpu
  readIndexed (indexed w c.x)

/-- `absy`, 4 or 5 cycles (R320). -/
def readAbsy (w : Word) : M Byte := do
  let c ← getCpu
  readIndexed (indexed w c.y)

/-- `indy`, 5 or 6 cycles (R322). -/
def readIndy (b1 : Byte) : M Byte := do
  let c ← getCpu
  let p ← pointerY b1
  readIndexed (indexed p c.y)

/-! ## The whole instruction, by class -/

/-- A read-class instruction: the template's data byte, then the operation on the registers. -/
def readClass (operand : M Byte) (op : Byte → Cpu → Cpu) : M Unit := do
  let m ← operand
  updCpu (op m)

/-- A write-class instruction: the template's address, then the write of the byte (R404). -/
def writeClass (ea : M Word) (value : Cpu → Byte) : M Unit := do
  let a ← ea
  let c ← getCpu
  memWrite .data a (value c)

/-- A read-modify-write instruction: the operand is read, written back unmodified, and written modified;
the flags are set before the final write, and `combine` follows it (R330). -/
def rmwClass (ea : M Word) (f : Byte → Cpu → Byte × Cpu) (combine : Byte → Cpu → Cpu) : M Unit := do
  let a ← ea
  let m ← memRead .data a
  dummyWrite a m
  let r ← stepCpu (f m)
  memWrite .data a r
  updCpu (combine r)

/-- A documented read-modify-write instruction combines its result with nothing. -/
def noCombine (_ : Byte) (c : Cpu) : Cpu := c

/-- An implied instruction: the byte after the opcode is read and discarded (R311). -/
def impliedClass (op : Cpu → Cpu) : M Unit := do
  dummyPc
  updCpu op

/-- The accumulator form of a shift: operand and result in A (R311). -/
def accumulatorClass (f : Byte → Cpu → Byte × Cpu) : M Unit :=
  impliedClass fun c => { (f c.a c).2 with a := (f c.a c).1 }

/-- The write of SHA, SHX, SHY and TAS after the template's dummy read: `reg & (H + 1)`, whose value
replaces the address's high byte on a page crossing when `SHX_PAGE_QUIRK` is set (R644). -/
def storeHigh (ix : Indexed) (reg : Cpu → Byte) : M Unit := do
  let cfg ← getConfig
  let c ← getCpu
  let v := reg c &&& (ix.high + 1#8)
  memWrite .data (if ix.cross && cfg.shxPageQuirk then mkWord v (loByte ix.ea) else ix.ea) v

/-- The branch template (R340, R520): PC is already the address after the branch. -/
def branchClass (cond : Cpu → Bool) (off : Byte) : M Unit := do
  let c ← getCpu
  if cond c then do
    dummyRead c.pc
    let t := c.pc + sext16 off
    if hiByte t = hiByte c.pc then jumpTo t
    else do
      dummyRead (mkWord (hiByte c.pc) (loByte t))
      jumpTo t
  else pure ()

end Sys2Proof.Machine
end

