-- ==== Sys2Proof/Machine/Arith.lean ====
section
/-! DEFINITION. Arithmetic, logic, comparison, increment and shift instructions (42_arithmetic_logic.md): one meaning per opcode, each from the cycle after
the instruction's bytes were fetched (40_cpu_step.md R306). -/

namespace Sys2Proof.Machine

/-- ADC indx, opcode 0x61 (R453). -/
def execAdcIndx (b1 : Byte) (s : State) : Result :=
  outcome (readClass (readIndx b1) Cpu.addCore) s

/-- ADC zp, opcode 0x65 (R453). -/
def execAdcZp (b1 : Byte) (s : State) : Result :=
  outcome (readClass (readZp b1) Cpu.addCore) s

/-- ADC imm, opcode 0x69 (R453). -/
def execAdcImm (b1 : Byte) (s : State) : Result :=
  outcome (readClass (readImm b1) Cpu.addCore) s

/-- ADC abs, opcode 0x6D (R453). -/
def execAdcAbs (w : Word) (s : State) : Result :=
  outcome (readClass (readAbs w) Cpu.addCore) s

/-- ADC indy, opcode 0x71 (R453). -/
def execAdcIndy (b1 : Byte) (s : State) : Result :=
  outcome (readClass (readIndy b1) Cpu.addCore) s

/-- ADC zpx, opcode 0x75 (R453). -/
def execAdcZpx (b1 : Byte) (s : State) : Result :=
  outcome (readClass (readZpx b1) Cpu.addCore) s

/-- ADC absy, opcode 0x79 (R453). -/
def execAdcAbsy (w : Word) (s : State) : Result :=
  outcome (readClass (readAbsy w) Cpu.addCore) s

/-- ADC absx, opcode 0x7D (R453). -/
def execAdcAbsx (w : Word) (s : State) : Result :=
  outcome (readClass (readAbsx w) Cpu.addCore) s

/-- SBC indx, opcode 0xE1 (R454). -/
def execSbcIndx (b1 : Byte) (s : State) : Result :=
  outcome (readClass (readIndx b1) Cpu.subCore) s

/-- SBC zp, opcode 0xE5 (R454). -/
def execSbcZp (b1 : Byte) (s : State) : Result :=
  outcome (readClass (readZp b1) Cpu.subCore) s

/-- SBC imm, opcode 0xE9 (R454). -/
def execSbcImm (b1 : Byte) (s : State) : Result :=
  outcome (readClass (readImm b1) Cpu.subCore) s

/-- SBC abs, opcode 0xED (R454). -/
def execSbcAbs (w : Word) (s : State) : Result :=
  outcome (readClass (readAbs w) Cpu.subCore) s

/-- SBC indy, opcode 0xF1 (R454). -/
def execSbcIndy (b1 : Byte) (s : State) : Result :=
  outcome (readClass (readIndy b1) Cpu.subCore) s

/-- SBC zpx, opcode 0xF5 (R454). -/
def execSbcZpx (b1 : Byte) (s : State) : Result :=
  outcome (readClass (readZpx b1) Cpu.subCore) s

/-- SBC absy, opcode 0xF9 (R454). -/
def execSbcAbsy (w : Word) (s : State) : Result :=
  outcome (readClass (readAbsy w) Cpu.subCore) s

/-- SBC absx, opcode 0xFD (R454). -/
def execSbcAbsx (w : Word) (s : State) : Result :=
  outcome (readClass (readAbsx w) Cpu.subCore) s

/-- AND indx, opcode 0x21 (R455). -/
def execAndIndx (b1 : Byte) (s : State) : Result :=
  outcome (readClass (readIndx b1) Cpu.andOp) s

/-- AND zp, opcode 0x25 (R455). -/
def execAndZp (b1 : Byte) (s : State) : Result :=
  outcome (readClass (readZp b1) Cpu.andOp) s

/-- AND imm, opcode 0x29 (R455). -/
def execAndImm (b1 : Byte) (s : State) : Result :=
  outcome (readClass (readImm b1) Cpu.andOp) s

/-- AND abs, opcode 0x2D (R455). -/
def execAndAbs (w : Word) (s : State) : Result :=
  outcome (readClass (readAbs w) Cpu.andOp) s

/-- AND indy, opcode 0x31 (R455). -/
def execAndIndy (b1 : Byte) (s : State) : Result :=
  outcome (readClass (readIndy b1) Cpu.andOp) s

/-- AND zpx, opcode 0x35 (R455). -/
def execAndZpx (b1 : Byte) (s : State) : Result :=
  outcome (readClass (readZpx b1) Cpu.andOp) s

/-- AND absy, opcode 0x39 (R455). -/
def execAndAbsy (w : Word) (s : State) : Result :=
  outcome (readClass (readAbsy w) Cpu.andOp) s

/-- AND absx, opcode 0x3D (R455). -/
def execAndAbsx (w : Word) (s : State) : Result :=
  outcome (readClass (readAbsx w) Cpu.andOp) s

/-- ORA indx, opcode 0x01 (R456). -/
def execOraIndx (b1 : Byte) (s : State) : Result :=
  outcome (readClass (readIndx b1) Cpu.oraOp) s

/-- ORA zp, opcode 0x05 (R456). -/
def execOraZp (b1 : Byte) (s : State) : Result :=
  outcome (readClass (readZp b1) Cpu.oraOp) s

/-- ORA imm, opcode 0x09 (R456). -/
def execOraImm (b1 : Byte) (s : State) : Result :=
  outcome (readClass (readImm b1) Cpu.oraOp) s

/-- ORA abs, opcode 0x0D (R456). -/
def execOraAbs (w : Word) (s : State) : Result :=
  outcome (readClass (readAbs w) Cpu.oraOp) s

/-- ORA indy, opcode 0x11 (R456). -/
def execOraIndy (b1 : Byte) (s : State) : Result :=
  outcome (readClass (readIndy b1) Cpu.oraOp) s

/-- ORA zpx, opcode 0x15 (R456). -/
def execOraZpx (b1 : Byte) (s : State) : Result :=
  outcome (readClass (readZpx b1) Cpu.oraOp) s

/-- ORA absy, opcode 0x19 (R456). -/
def execOraAbsy (w : Word) (s : State) : Result :=
  outcome (readClass (readAbsy w) Cpu.oraOp) s

/-- ORA absx, opcode 0x1D (R456). -/
def execOraAbsx (w : Word) (s : State) : Result :=
  outcome (readClass (readAbsx w) Cpu.oraOp) s

/-- EOR indx, opcode 0x41 (R457). -/
def execEorIndx (b1 : Byte) (s : State) : Result :=
  outcome (readClass (readIndx b1) Cpu.eorOp) s

/-- EOR zp, opcode 0x45 (R457). -/
def execEorZp (b1 : Byte) (s : State) : Result :=
  outcome (readClass (readZp b1) Cpu.eorOp) s

/-- EOR imm, opcode 0x49 (R457). -/
def execEorImm (b1 : Byte) (s : State) : Result :=
  outcome (readClass (readImm b1) Cpu.eorOp) s

/-- EOR abs, opcode 0x4D (R457). -/
def execEorAbs (w : Word) (s : State) : Result :=
  outcome (readClass (readAbs w) Cpu.eorOp) s

/-- EOR indy, opcode 0x51 (R457). -/
def execEorIndy (b1 : Byte) (s : State) : Result :=
  outcome (readClass (readIndy b1) Cpu.eorOp) s

/-- EOR zpx, opcode 0x55 (R457). -/
def execEorZpx (b1 : Byte) (s : State) : Result :=
  outcome (readClass (readZpx b1) Cpu.eorOp) s

/-- EOR absy, opcode 0x59 (R457). -/
def execEorAbsy (w : Word) (s : State) : Result :=
  outcome (readClass (readAbsy w) Cpu.eorOp) s

/-- EOR absx, opcode 0x5D (R457). -/
def execEorAbsx (w : Word) (s : State) : Result :=
  outcome (readClass (readAbsx w) Cpu.eorOp) s

/-- BIT zp, opcode 0x24 (R458). -/
def execBitZp (b1 : Byte) (s : State) : Result :=
  outcome (readClass (readZp b1) Cpu.bitOp) s

/-- BIT abs, opcode 0x2C (R458). -/
def execBitAbs (w : Word) (s : State) : Result :=
  outcome (readClass (readAbs w) Cpu.bitOp) s

/-- CMP indx, opcode 0xC1 (R459). -/
def execCmpIndx (b1 : Byte) (s : State) : Result :=
  outcome (readClass (readIndx b1) Cpu.cmpOp) s

/-- CMP zp, opcode 0xC5 (R459). -/
def execCmpZp (b1 : Byte) (s : State) : Result :=
  outcome (readClass (readZp b1) Cpu.cmpOp) s

/-- CMP imm, opcode 0xC9 (R459). -/
def execCmpImm (b1 : Byte) (s : State) : Result :=
  outcome (readClass (readImm b1) Cpu.cmpOp) s

/-- CMP abs, opcode 0xCD (R459). -/
def execCmpAbs (w : Word) (s : State) : Result :=
  outcome (readClass (readAbs w) Cpu.cmpOp) s

/-- CMP indy, opcode 0xD1 (R459). -/
def execCmpIndy (b1 : Byte) (s : State) : Result :=
  outcome (readClass (readIndy b1) Cpu.cmpOp) s

/-- CMP zpx, opcode 0xD5 (R459). -/
def execCmpZpx (b1 : Byte) (s : State) : Result :=
  outcome (readClass (readZpx b1) Cpu.cmpOp) s

/-- CMP absy, opcode 0xD9 (R459). -/
def execCmpAbsy (w : Word) (s : State) : Result :=
  outcome (readClass (readAbsy w) Cpu.cmpOp) s

/-- CMP absx, opcode 0xDD (R459). -/
def execCmpAbsx (w : Word) (s : State) : Result :=
  outcome (readClass (readAbsx w) Cpu.cmpOp) s

/-- CPX imm, opcode 0xE0 (R460). -/
def execCpxImm (b1 : Byte) (s : State) : Result :=
  outcome (readClass (readImm b1) Cpu.cpxOp) s

/-- CPX zp, opcode 0xE4 (R460). -/
def execCpxZp (b1 : Byte) (s : State) : Result :=
  outcome (readClass (readZp b1) Cpu.cpxOp) s

/-- CPX abs, opcode 0xEC (R460). -/
def execCpxAbs (w : Word) (s : State) : Result :=
  outcome (readClass (readAbs w) Cpu.cpxOp) s

/-- CPY imm, opcode 0xC0 (R461). -/
def execCpyImm (b1 : Byte) (s : State) : Result :=
  outcome (readClass (readImm b1) Cpu.cpyOp) s

/-- CPY zp, opcode 0xC4 (R461). -/
def execCpyZp (b1 : Byte) (s : State) : Result :=
  outcome (readClass (readZp b1) Cpu.cpyOp) s

/-- CPY abs, opcode 0xCC (R461). -/
def execCpyAbs (w : Word) (s : State) : Result :=
  outcome (readClass (readAbs w) Cpu.cpyOp) s

/-- INC zp, opcode 0xE6 (R462). -/
def execIncZp (b1 : Byte) (s : State) : Result :=
  outcome (rmwClass (addrZp b1) Cpu.incOp noCombine) s

/-- INC abs, opcode 0xEE (R462). -/
def execIncAbs (w : Word) (s : State) : Result :=
  outcome (rmwClass (addrAbs w) Cpu.incOp noCombine) s

/-- INC zpx, opcode 0xF6 (R462). -/
def execIncZpx (b1 : Byte) (s : State) : Result :=
  outcome (rmwClass (addrZpx b1) Cpu.incOp noCombine) s

/-- INC absx, opcode 0xFE (R462). -/
def execIncAbsx (w : Word) (s : State) : Result :=
  outcome (rmwClass (addrAbsx w) Cpu.incOp noCombine) s

/-- DEC zp, opcode 0xC6 (R463). -/
def execDecZp (b1 : Byte) (s : State) : Result :=
  outcome (rmwClass (addrZp b1) Cpu.decOp noCombine) s

/-- DEC abs, opcode 0xCE (R463). -/
def execDecAbs (w : Word) (s : State) : Result :=
  outcome (rmwClass (addrAbs w) Cpu.decOp noCombine) s

/-- DEC zpx, opcode 0xD6 (R463). -/
def execDecZpx (b1 : Byte) (s : State) : Result :=
  outcome (rmwClass (addrZpx b1) Cpu.decOp noCombine) s

/-- DEC absx, opcode 0xDE (R463). -/
def execDecAbsx (w : Word) (s : State) : Result :=
  outcome (rmwClass (addrAbsx w) Cpu.decOp noCombine) s

/-- INX imp, opcode 0xE8 (R464). -/
def execInx (s : State) : Result :=
  outcome (impliedClass (fun c => c.loadX (c.x + 1#8))) s

/-- INY imp, opcode 0xC8 (R465). -/
def execIny (s : State) : Result :=
  outcome (impliedClass (fun c => c.loadY (c.y + 1#8))) s

/-- DEX imp, opcode 0xCA (R466). -/
def execDex (s : State) : Result :=
  outcome (impliedClass (fun c => c.loadX (c.x - 1#8))) s

/-- DEY imp, opcode 0x88 (R467). -/
def execDey (s : State) : Result :=
  outcome (impliedClass (fun c => c.loadY (c.y - 1#8))) s

/-- ASL zp, opcode 0x06 (R468). -/
def execAslZp (b1 : Byte) (s : State) : Result :=
  outcome (rmwClass (addrZp b1) Cpu.aslOp noCombine) s

/-- ASL acc, opcode 0x0A (R468). -/
def execAslAcc (s : State) : Result :=
  outcome (accumulatorClass Cpu.aslOp) s

/-- ASL abs, opcode 0x0E (R468). -/
def execAslAbs (w : Word) (s : State) : Result :=
  outcome (rmwClass (addrAbs w) Cpu.aslOp noCombine) s

/-- ASL zpx, opcode 0x16 (R468). -/
def execAslZpx (b1 : Byte) (s : State) : Result :=
  outcome (rmwClass (addrZpx b1) Cpu.aslOp noCombine) s

/-- ASL absx, opcode 0x1E (R468). -/
def execAslAbsx (w : Word) (s : State) : Result :=
  outcome (rmwClass (addrAbsx w) Cpu.aslOp noCombine) s

/-- LSR zp, opcode 0x46 (R469). -/
def execLsrZp (b1 : Byte) (s : State) : Result :=
  outcome (rmwClass (addrZp b1) Cpu.lsrOp noCombine) s

/-- LSR acc, opcode 0x4A (R469). -/
def execLsrAcc (s : State) : Result :=
  outcome (accumulatorClass Cpu.lsrOp) s

/-- LSR abs, opcode 0x4E (R469). -/
def execLsrAbs (w : Word) (s : State) : Result :=
  outcome (rmwClass (addrAbs w) Cpu.lsrOp noCombine) s

/-- LSR zpx, opcode 0x56 (R469). -/
def execLsrZpx (b1 : Byte) (s : State) : Result :=
  outcome (rmwClass (addrZpx b1) Cpu.lsrOp noCombine) s

/-- LSR absx, opcode 0x5E (R469). -/
def execLsrAbsx (w : Word) (s : State) : Result :=
  outcome (rmwClass (addrAbsx w) Cpu.lsrOp noCombine) s

/-- ROL zp, opcode 0x26 (R470). -/
def execRolZp (b1 : Byte) (s : State) : Result :=
  outcome (rmwClass (addrZp b1) Cpu.rolOp noCombine) s

/-- ROL acc, opcode 0x2A (R470). -/
def execRolAcc (s : State) : Result :=
  outcome (accumulatorClass Cpu.rolOp) s

/-- ROL abs, opcode 0x2E (R470). -/
def execRolAbs (w : Word) (s : State) : Result :=
  outcome (rmwClass (addrAbs w) Cpu.rolOp noCombine) s

/-- ROL zpx, opcode 0x36 (R470). -/
def execRolZpx (b1 : Byte) (s : State) : Result :=
  outcome (rmwClass (addrZpx b1) Cpu.rolOp noCombine) s

/-- ROL absx, opcode 0x3E (R470). -/
def execRolAbsx (w : Word) (s : State) : Result :=
  outcome (rmwClass (addrAbsx w) Cpu.rolOp noCombine) s

/-- ROR zp, opcode 0x66 (R471). -/
def execRorZp (b1 : Byte) (s : State) : Result :=
  outcome (rmwClass (addrZp b1) Cpu.rorOp noCombine) s

/-- ROR acc, opcode 0x6A (R471). -/
def execRorAcc (s : State) : Result :=
  outcome (accumulatorClass Cpu.rorOp) s

/-- ROR abs, opcode 0x6E (R471). -/
def execRorAbs (w : Word) (s : State) : Result :=
  outcome (rmwClass (addrAbs w) Cpu.rorOp noCombine) s

/-- ROR zpx, opcode 0x76 (R471). -/
def execRorZpx (b1 : Byte) (s : State) : Result :=
  outcome (rmwClass (addrZpx b1) Cpu.rorOp noCombine) s

/-- ROR absx, opcode 0x7E (R471). -/
def execRorAbsx (w : Word) (s : State) : Result :=
  outcome (rmwClass (addrAbsx w) Cpu.rorOp noCombine) s

end Sys2Proof.Machine
end

