-- ==== Sys2Proof/Machine/Control.lean ====
section
/-! DEFINITION. Branches, jumps, subroutines, returns and BRK (43_control_flow.md): one meaning per opcode, each from the cycle after
the instruction's bytes were fetched (40_cpu_step.md R306). -/

namespace Sys2Proof.Machine

/-- JMP absolute (R530). The high operand byte is the one fetched at PC in cycle 2. -/
def jumpAbsolute (w : Word) : M Unit := jumpTo w

/-- JMP indirect: the pointer's high byte comes from the pointer's own page (R259, R531). -/
def jumpIndirect (w : Word) : M Unit := do
  let lo ← memRead .pointer w
  let hi ← memRead .pointer (mkWord (hiByte w) (loByte w + 1#8))
  jumpTo (mkWord hi lo)

/-- JSR from its third cycle on: PC addresses the high operand byte, which is read after the pushes, so
that the target's high byte is the byte standing there then (R535). -/
def jumpSubroutine (w : Word) : M Unit := do
  dummyStack
  let c ← getCpu
  push (hiByte c.pc)
  push (loByte c.pc)
  let hh ← memRead .operand c.pc
  jumpTo (mkWord hh (loByte w))

/-- RTS: the stacked word plus 1 (R536). -/
def returnSubroutine : M Unit := do
  dummyPc
  dummyStack
  let lo ← pull
  let hi ← pull
  jumpTo (mkWord hi lo)
  dummyPc
  jumpTo (mkWord hi lo + 1#16)

/-- RTI (R537). -/
def returnInterrupt : M Unit := do
  dummyPc
  dummyStack
  returnFromException

/-- BRK: the padding byte is fetched and skipped, then the shared cycles with B = 1 (R540, R885). -/
def softwareInterrupt : M Unit := do
  let _ ← fetch
  takeException true Config.irqVector

/-- BPL rel, opcode 0x10 (R521). -/
def execBplRel (off : Byte) (s : State) : Result :=
  outcome (branchClass (fun c => !c.flagN) off) s

/-- BMI rel, opcode 0x30 (R522). -/
def execBmiRel (off : Byte) (s : State) : Result :=
  outcome (branchClass (fun c => c.flagN) off) s

/-- BVC rel, opcode 0x50 (R523). -/
def execBvcRel (off : Byte) (s : State) : Result :=
  outcome (branchClass (fun c => !c.flagV) off) s

/-- BVS rel, opcode 0x70 (R524). -/
def execBvsRel (off : Byte) (s : State) : Result :=
  outcome (branchClass (fun c => c.flagV) off) s

/-- BCC rel, opcode 0x90 (R525). -/
def execBccRel (off : Byte) (s : State) : Result :=
  outcome (branchClass (fun c => !c.flagC) off) s

/-- BCS rel, opcode 0xB0 (R526). -/
def execBcsRel (off : Byte) (s : State) : Result :=
  outcome (branchClass (fun c => c.flagC) off) s

/-- BNE rel, opcode 0xD0 (R527). -/
def execBneRel (off : Byte) (s : State) : Result :=
  outcome (branchClass (fun c => !c.flagZ) off) s

/-- BEQ rel, opcode 0xF0 (R528). -/
def execBeqRel (off : Byte) (s : State) : Result :=
  outcome (branchClass (fun c => c.flagZ) off) s

/-- JMP abs, opcode 0x4C (R530). -/
def execJmpAbs (w : Word) (s : State) : Result :=
  outcome (jumpAbsolute w) s

/-- JMP ind, opcode 0x6C (R531). -/
def execJmpInd (w : Word) (s : State) : Result :=
  outcome (jumpIndirect w) s

/-- JSR abs, opcode 0x20 (R535). -/
def execJsrAbs (w : Word) (s : State) : Result :=
  outcome (jumpSubroutine w) s

/-- RTS imp, opcode 0x60 (R536). -/
def execRts (s : State) : Result :=
  outcome (returnSubroutine) s

/-- RTI imp, opcode 0x40 (R537). -/
def execRti (s : State) : Result :=
  outcome (returnInterrupt) s

/-- BRK imp, opcode 0x00 (R540). -/
def execBrk (s : State) : Result :=
  outcome (softwareInterrupt) s

end Sys2Proof.Machine
end

