-- ==== Sys2Proof/Machine/LoadStore.lean ====
section
/-! DEFINITION. Loads, stores and register transfers (41_load_store_transfer.md): one meaning per opcode, each from the cycle after
the instruction's bytes were fetched (40_cpu_step.md R306). -/

namespace Sys2Proof.Machine

/-- LDA indx, opcode 0xA1 (R401). -/
def execLdaIndx (b1 : Byte) (s : State) : Result :=
  outcome (readClass (readIndx b1) Cpu.loadA) s

/-- LDA zp, opcode 0xA5 (R401). -/
def execLdaZp (b1 : Byte) (s : State) : Result :=
  outcome (readClass (readZp b1) Cpu.loadA) s

/-- LDA imm, opcode 0xA9 (R401). -/
def execLdaImm (b1 : Byte) (s : State) : Result :=
  outcome (readClass (readImm b1) Cpu.loadA) s

/-- LDA abs, opcode 0xAD (R401). -/
def execLdaAbs (w : Word) (s : State) : Result :=
  outcome (readClass (readAbs w) Cpu.loadA) s

/-- LDA indy, opcode 0xB1 (R401). -/
def execLdaIndy (b1 : Byte) (s : State) : Result :=
  outcome (readClass (readIndy b1) Cpu.loadA) s

/-- LDA zpx, opcode 0xB5 (R401). -/
def execLdaZpx (b1 : Byte) (s : State) : Result :=
  outcome (readClass (readZpx b1) Cpu.loadA) s

/-- LDA absy, opcode 0xB9 (R401). -/
def execLdaAbsy (w : Word) (s : State) : Result :=
  outcome (readClass (readAbsy w) Cpu.loadA) s

/-- LDA absx, opcode 0xBD (R401). -/
def execLdaAbsx (w : Word) (s : State) : Result :=
  outcome (readClass (readAbsx w) Cpu.loadA) s

/-- LDX imm, opcode 0xA2 (R402). -/
def execLdxImm (b1 : Byte) (s : State) : Result :=
  outcome (readClass (readImm b1) Cpu.loadX) s

/-- LDX zp, opcode 0xA6 (R402). -/
def execLdxZp (b1 : Byte) (s : State) : Result :=
  outcome (readClass (readZp b1) Cpu.loadX) s

/-- LDX abs, opcode 0xAE (R402). -/
def execLdxAbs (w : Word) (s : State) : Result :=
  outcome (readClass (readAbs w) Cpu.loadX) s

/-- LDX zpy, opcode 0xB6 (R402). -/
def execLdxZpy (b1 : Byte) (s : State) : Result :=
  outcome (readClass (readZpy b1) Cpu.loadX) s

/-- LDX absy, opcode 0xBE (R402). -/
def execLdxAbsy (w : Word) (s : State) : Result :=
  outcome (readClass (readAbsy w) Cpu.loadX) s

/-- LDY imm, opcode 0xA0 (R403). -/
def execLdyImm (b1 : Byte) (s : State) : Result :=
  outcome (readClass (readImm b1) Cpu.loadY) s

/-- LDY zp, opcode 0xA4 (R403). -/
def execLdyZp (b1 : Byte) (s : State) : Result :=
  outcome (readClass (readZp b1) Cpu.loadY) s

/-- LDY abs, opcode 0xAC (R403). -/
def execLdyAbs (w : Word) (s : State) : Result :=
  outcome (readClass (readAbs w) Cpu.loadY) s

/-- LDY zpx, opcode 0xB4 (R403). -/
def execLdyZpx (b1 : Byte) (s : State) : Result :=
  outcome (readClass (readZpx b1) Cpu.loadY) s

/-- LDY absx, opcode 0xBC (R403). -/
def execLdyAbsx (w : Word) (s : State) : Result :=
  outcome (readClass (readAbsx w) Cpu.loadY) s

/-- STA indx, opcode 0x81 (R404). -/
def execStaIndx (b1 : Byte) (s : State) : Result :=
  outcome (writeClass (addrIndx b1) (fun c => c.a)) s

/-- STA zp, opcode 0x85 (R404). -/
def execStaZp (b1 : Byte) (s : State) : Result :=
  outcome (writeClass (addrZp b1) (fun c => c.a)) s

/-- STA abs, opcode 0x8D (R404). -/
def execStaAbs (w : Word) (s : State) : Result :=
  outcome (writeClass (addrAbs w) (fun c => c.a)) s

/-- STA indy, opcode 0x91 (R404). -/
def execStaIndy (b1 : Byte) (s : State) : Result :=
  outcome (writeClass (addrIndy b1) (fun c => c.a)) s

/-- STA zpx, opcode 0x95 (R404). -/
def execStaZpx (b1 : Byte) (s : State) : Result :=
  outcome (writeClass (addrZpx b1) (fun c => c.a)) s

/-- STA absy, opcode 0x99 (R404). -/
def execStaAbsy (w : Word) (s : State) : Result :=
  outcome (writeClass (addrAbsy w) (fun c => c.a)) s

/-- STA absx, opcode 0x9D (R404). -/
def execStaAbsx (w : Word) (s : State) : Result :=
  outcome (writeClass (addrAbsx w) (fun c => c.a)) s

/-- STX zp, opcode 0x86 (R405). -/
def execStxZp (b1 : Byte) (s : State) : Result :=
  outcome (writeClass (addrZp b1) (fun c => c.x)) s

/-- STX abs, opcode 0x8E (R405). -/
def execStxAbs (w : Word) (s : State) : Result :=
  outcome (writeClass (addrAbs w) (fun c => c.x)) s

/-- STX zpy, opcode 0x96 (R405). -/
def execStxZpy (b1 : Byte) (s : State) : Result :=
  outcome (writeClass (addrZpy b1) (fun c => c.x)) s

/-- STY zp, opcode 0x84 (R406). -/
def execStyZp (b1 : Byte) (s : State) : Result :=
  outcome (writeClass (addrZp b1) (fun c => c.y)) s

/-- STY abs, opcode 0x8C (R406). -/
def execStyAbs (w : Word) (s : State) : Result :=
  outcome (writeClass (addrAbs w) (fun c => c.y)) s

/-- STY zpx, opcode 0x94 (R406). -/
def execStyZpx (b1 : Byte) (s : State) : Result :=
  outcome (writeClass (addrZpx b1) (fun c => c.y)) s

/-- TAX imp, opcode 0xAA (R407). -/
def execTax (s : State) : Result :=
  outcome (impliedClass (fun c => c.loadX c.a)) s

/-- TAY imp, opcode 0xA8 (R408). -/
def execTay (s : State) : Result :=
  outcome (impliedClass (fun c => c.loadY c.a)) s

/-- TXA imp, opcode 0x8A (R409). -/
def execTxa (s : State) : Result :=
  outcome (impliedClass (fun c => c.loadA c.x)) s

/-- TYA imp, opcode 0x98 (R410). -/
def execTya (s : State) : Result :=
  outcome (impliedClass (fun c => c.loadA c.y)) s

/-- TSX imp, opcode 0xBA (R411). -/
def execTsx (s : State) : Result :=
  outcome (impliedClass (fun c => c.loadX c.s)) s

/-- TXS imp, opcode 0x9A (R412). -/
def execTxs (s : State) : Result :=
  outcome (impliedClass (fun c => { c with s := c.x })) s

end Sys2Proof.Machine
end

