-- ==== Sys2Proof/Machine/StackFlags.lean ====
section
/-! DEFINITION. Stack, flag and no-operation instructions (44_stack_flags_misc.md): one meaning per opcode, each from the cycle after
the instruction's bytes were fetched (40_cpu_step.md R306). -/

namespace Sys2Proof.Machine

/-- The push template (R332). -/
def pushClass (value : Cpu → Byte) : M Unit := do
  dummyPc
  let c ← getCpu
  push (value c)

/-- The pull template (R332). -/
def pullClass (op : Byte → Cpu → Cpu) : M Unit := do
  dummyPc
  dummyStack
  let v ← pull
  updCpu (op v)

/-- PHA imp, opcode 0x48 (R570). -/
def execPha (s : State) : Result :=
  outcome (pushClass (fun c => c.a)) s

/-- PHP imp, opcode 0x08 (R571). -/
def execPhp (s : State) : Result :=
  outcome (pushClass (Cpu.pByte true)) s

/-- PLA imp, opcode 0x68 (R572). -/
def execPla (s : State) : Result :=
  outcome (pullClass Cpu.loadA) s

/-- PLP imp, opcode 0x28 (R573). -/
def execPlp (s : State) : Result :=
  outcome (pullClass Cpu.setP) s

/-- CLC imp, opcode 0x18 (R574). -/
def execClc (s : State) : Result :=
  outcome (impliedClass (fun c => { c with flagC := false })) s

/-- SEC imp, opcode 0x38 (R575). -/
def execSec (s : State) : Result :=
  outcome (impliedClass (fun c => { c with flagC := true })) s

/-- CLI imp, opcode 0x58 (R576). -/
def execCli (s : State) : Result :=
  outcome (impliedClass (fun c => { c with flagI := false })) s

/-- SEI imp, opcode 0x78 (R577). -/
def execSei (s : State) : Result :=
  outcome (impliedClass (fun c => { c with flagI := true })) s

/-- CLD imp, opcode 0xD8 (R578). -/
def execCld (s : State) : Result :=
  outcome (impliedClass (fun c => { c with flagD := false })) s

/-- SED imp, opcode 0xF8 (R579). -/
def execSed (s : State) : Result :=
  outcome (impliedClass (fun c => { c with flagD := true })) s

/-- CLV imp, opcode 0xB8 (R580). -/
def execClv (s : State) : Result :=
  outcome (impliedClass (fun c => { c with flagV := false })) s

/-- NOP imp, opcode 0xEA (R581). -/
def execNop (s : State) : Result :=
  outcome (impliedClass (fun c => c)) s

end Sys2Proof.Machine
end

