-- ==== Sys2Proof/Machine/Undocumented.lean ====
section
/-! DEFINITION. The undocumented opcodes (45_undocumented.md): one meaning per opcode, each from the cycle after
the instruction's bytes were fetched (40_cpu_step.md R306). -/

namespace Sys2Proof.Machine

/-- SHA, SHX and SHY with an absolute base (R644): the template's dummy read, then the store. -/
def highStoreAbs (w : Word) (index reg : Cpu → Byte) : M Unit := do
  let c ← getCpu
  let _ ← addrIndexed (indexed w (index c))
  storeHigh (indexed w (index c)) reg

/-- SHA with a zero-page pointer, whose high byte is `H` (R644, R645). -/
def highStoreInd (b1 : Byte) (reg : Cpu → Byte) : M Unit := do
  let c ← getCpu
  let p ← pointerY b1
  let _ ← addrIndexed (indexed p c.y)
  storeHigh (indexed p c.y) reg

/-- TAS: `S <- A & X` once the address is known, then the store of `S & (H + 1)` (R644, R648). -/
def transferAndStore (w : Word) : M Unit := do
  let c ← getCpu
  let _ ← addrIndexed (indexed w c.y)
  updCpu fun c => { c with s := c.a &&& c.x }
  storeHigh (indexed w c.y) fun c => c.s

/-- SLO indx, opcode 0x03 (R621). -/
def execSloIndx (b1 : Byte) (s : State) : Result :=
  outcome (rmwClass (addrIndx b1) Cpu.sloShift Cpu.oraOp) s

/-- SLO zp, opcode 0x07 (R621). -/
def execSloZp (b1 : Byte) (s : State) : Result :=
  outcome (rmwClass (addrZp b1) Cpu.sloShift Cpu.oraOp) s

/-- SLO abs, opcode 0x0F (R621). -/
def execSloAbs (w : Word) (s : State) : Result :=
  outcome (rmwClass (addrAbs w) Cpu.sloShift Cpu.oraOp) s

/-- SLO indy, opcode 0x13 (R621). -/
def execSloIndy (b1 : Byte) (s : State) : Result :=
  outcome (rmwClass (addrIndy b1) Cpu.sloShift Cpu.oraOp) s

/-- SLO zpx, opcode 0x17 (R621). -/
def execSloZpx (b1 : Byte) (s : State) : Result :=
  outcome (rmwClass (addrZpx b1) Cpu.sloShift Cpu.oraOp) s

/-- SLO absy, opcode 0x1B (R621). -/
def execSloAbsy (w : Word) (s : State) : Result :=
  outcome (rmwClass (addrAbsy w) Cpu.sloShift Cpu.oraOp) s

/-- SLO absx, opcode 0x1F (R621). -/
def execSloAbsx (w : Word) (s : State) : Result :=
  outcome (rmwClass (addrAbsx w) Cpu.sloShift Cpu.oraOp) s

/-- RLA indx, opcode 0x23 (R622). -/
def execRlaIndx (b1 : Byte) (s : State) : Result :=
  outcome (rmwClass (addrIndx b1) Cpu.rlaShift Cpu.andOp) s

/-- RLA zp, opcode 0x27 (R622). -/
def execRlaZp (b1 : Byte) (s : State) : Result :=
  outcome (rmwClass (addrZp b1) Cpu.rlaShift Cpu.andOp) s

/-- RLA abs, opcode 0x2F (R622). -/
def execRlaAbs (w : Word) (s : State) : Result :=
  outcome (rmwClass (addrAbs w) Cpu.rlaShift Cpu.andOp) s

/-- RLA indy, opcode 0x33 (R622). -/
def execRlaIndy (b1 : Byte) (s : State) : Result :=
  outcome (rmwClass (addrIndy b1) Cpu.rlaShift Cpu.andOp) s

/-- RLA zpx, opcode 0x37 (R622). -/
def execRlaZpx (b1 : Byte) (s : State) : Result :=
  outcome (rmwClass (addrZpx b1) Cpu.rlaShift Cpu.andOp) s

/-- RLA absy, opcode 0x3B (R622). -/
def execRlaAbsy (w : Word) (s : State) : Result :=
  outcome (rmwClass (addrAbsy w) Cpu.rlaShift Cpu.andOp) s

/-- RLA absx, opcode 0x3F (R622). -/
def execRlaAbsx (w : Word) (s : State) : Result :=
  outcome (rmwClass (addrAbsx w) Cpu.rlaShift Cpu.andOp) s

/-- SRE indx, opcode 0x43 (R623). -/
def execSreIndx (b1 : Byte) (s : State) : Result :=
  outcome (rmwClass (addrIndx b1) Cpu.sreShift Cpu.eorOp) s

/-- SRE zp, opcode 0x47 (R623). -/
def execSreZp (b1 : Byte) (s : State) : Result :=
  outcome (rmwClass (addrZp b1) Cpu.sreShift Cpu.eorOp) s

/-- SRE abs, opcode 0x4F (R623). -/
def execSreAbs (w : Word) (s : State) : Result :=
  outcome (rmwClass (addrAbs w) Cpu.sreShift Cpu.eorOp) s

/-- SRE indy, opcode 0x53 (R623). -/
def execSreIndy (b1 : Byte) (s : State) : Result :=
  outcome (rmwClass (addrIndy b1) Cpu.sreShift Cpu.eorOp) s

/-- SRE zpx, opcode 0x57 (R623). -/
def execSreZpx (b1 : Byte) (s : State) : Result :=
  outcome (rmwClass (addrZpx b1) Cpu.sreShift Cpu.eorOp) s

/-- SRE absy, opcode 0x5B (R623). -/
def execSreAbsy (w : Word) (s : State) : Result :=
  outcome (rmwClass (addrAbsy w) Cpu.sreShift Cpu.eorOp) s

/-- SRE absx, opcode 0x5F (R623). -/
def execSreAbsx (w : Word) (s : State) : Result :=
  outcome (rmwClass (addrAbsx w) Cpu.sreShift Cpu.eorOp) s

/-- RRA indx, opcode 0x63 (R624). -/
def execRraIndx (b1 : Byte) (s : State) : Result :=
  outcome (rmwClass (addrIndx b1) Cpu.rraShift Cpu.addCore) s

/-- RRA zp, opcode 0x67 (R624). -/
def execRraZp (b1 : Byte) (s : State) : Result :=
  outcome (rmwClass (addrZp b1) Cpu.rraShift Cpu.addCore) s

/-- RRA abs, opcode 0x6F (R624). -/
def execRraAbs (w : Word) (s : State) : Result :=
  outcome (rmwClass (addrAbs w) Cpu.rraShift Cpu.addCore) s

/-- RRA indy, opcode 0x73 (R624). -/
def execRraIndy (b1 : Byte) (s : State) : Result :=
  outcome (rmwClass (addrIndy b1) Cpu.rraShift Cpu.addCore) s

/-- RRA zpx, opcode 0x77 (R624). -/
def execRraZpx (b1 : Byte) (s : State) : Result :=
  outcome (rmwClass (addrZpx b1) Cpu.rraShift Cpu.addCore) s

/-- RRA absy, opcode 0x7B (R624). -/
def execRraAbsy (w : Word) (s : State) : Result :=
  outcome (rmwClass (addrAbsy w) Cpu.rraShift Cpu.addCore) s

/-- RRA absx, opcode 0x7F (R624). -/
def execRraAbsx (w : Word) (s : State) : Result :=
  outcome (rmwClass (addrAbsx w) Cpu.rraShift Cpu.addCore) s

/-- DCP indx, opcode 0xC3 (R625). -/
def execDcpIndx (b1 : Byte) (s : State) : Result :=
  outcome (rmwClass (addrIndx b1) Cpu.dcpStep Cpu.cmpOp) s

/-- DCP zp, opcode 0xC7 (R625). -/
def execDcpZp (b1 : Byte) (s : State) : Result :=
  outcome (rmwClass (addrZp b1) Cpu.dcpStep Cpu.cmpOp) s

/-- DCP abs, opcode 0xCF (R625). -/
def execDcpAbs (w : Word) (s : State) : Result :=
  outcome (rmwClass (addrAbs w) Cpu.dcpStep Cpu.cmpOp) s

/-- DCP indy, opcode 0xD3 (R625). -/
def execDcpIndy (b1 : Byte) (s : State) : Result :=
  outcome (rmwClass (addrIndy b1) Cpu.dcpStep Cpu.cmpOp) s

/-- DCP zpx, opcode 0xD7 (R625). -/
def execDcpZpx (b1 : Byte) (s : State) : Result :=
  outcome (rmwClass (addrZpx b1) Cpu.dcpStep Cpu.cmpOp) s

/-- DCP absy, opcode 0xDB (R625). -/
def execDcpAbsy (w : Word) (s : State) : Result :=
  outcome (rmwClass (addrAbsy w) Cpu.dcpStep Cpu.cmpOp) s

/-- DCP absx, opcode 0xDF (R625). -/
def execDcpAbsx (w : Word) (s : State) : Result :=
  outcome (rmwClass (addrAbsx w) Cpu.dcpStep Cpu.cmpOp) s

/-- ISC indx, opcode 0xE3 (R626). -/
def execIscIndx (b1 : Byte) (s : State) : Result :=
  outcome (rmwClass (addrIndx b1) Cpu.iscStep Cpu.subCore) s

/-- ISC zp, opcode 0xE7 (R626). -/
def execIscZp (b1 : Byte) (s : State) : Result :=
  outcome (rmwClass (addrZp b1) Cpu.iscStep Cpu.subCore) s

/-- ISC abs, opcode 0xEF (R626). -/
def execIscAbs (w : Word) (s : State) : Result :=
  outcome (rmwClass (addrAbs w) Cpu.iscStep Cpu.subCore) s

/-- ISC indy, opcode 0xF3 (R626). -/
def execIscIndy (b1 : Byte) (s : State) : Result :=
  outcome (rmwClass (addrIndy b1) Cpu.iscStep Cpu.subCore) s

/-- ISC zpx, opcode 0xF7 (R626). -/
def execIscZpx (b1 : Byte) (s : State) : Result :=
  outcome (rmwClass (addrZpx b1) Cpu.iscStep Cpu.subCore) s

/-- ISC absy, opcode 0xFB (R626). -/
def execIscAbsy (w : Word) (s : State) : Result :=
  outcome (rmwClass (addrAbsy w) Cpu.iscStep Cpu.subCore) s

/-- ISC absx, opcode 0xFF (R626). -/
def execIscAbsx (w : Word) (s : State) : Result :=
  outcome (rmwClass (addrAbsx w) Cpu.iscStep Cpu.subCore) s

/-- SAX indx, opcode 0x83 (R627). -/
def execSaxIndx (b1 : Byte) (s : State) : Result :=
  outcome (writeClass (addrIndx b1) (fun c => c.a &&& c.x)) s

/-- SAX zp, opcode 0x87 (R627). -/
def execSaxZp (b1 : Byte) (s : State) : Result :=
  outcome (writeClass (addrZp b1) (fun c => c.a &&& c.x)) s

/-- SAX abs, opcode 0x8F (R627). -/
def execSaxAbs (w : Word) (s : State) : Result :=
  outcome (writeClass (addrAbs w) (fun c => c.a &&& c.x)) s

/-- SAX zpy, opcode 0x97 (R627). -/
def execSaxZpy (b1 : Byte) (s : State) : Result :=
  outcome (writeClass (addrZpy b1) (fun c => c.a &&& c.x)) s

/-- LAX indx, opcode 0xA3 (R628). -/
def execLaxIndx (b1 : Byte) (s : State) : Result :=
  outcome (readClass (readIndx b1) Cpu.laxOp) s

/-- LAX zp, opcode 0xA7 (R628). -/
def execLaxZp (b1 : Byte) (s : State) : Result :=
  outcome (readClass (readZp b1) Cpu.laxOp) s

/-- LAX abs, opcode 0xAF (R628). -/
def execLaxAbs (w : Word) (s : State) : Result :=
  outcome (readClass (readAbs w) Cpu.laxOp) s

/-- LAX indy, opcode 0xB3 (R628). -/
def execLaxIndy (b1 : Byte) (s : State) : Result :=
  outcome (readClass (readIndy b1) Cpu.laxOp) s

/-- LAX zpy, opcode 0xB7 (R628). -/
def execLaxZpy (b1 : Byte) (s : State) : Result :=
  outcome (readClass (readZpy b1) Cpu.laxOp) s

/-- LAX absy, opcode 0xBF (R628). -/
def execLaxAbsy (w : Word) (s : State) : Result :=
  outcome (readClass (readAbsy w) Cpu.laxOp) s

/-- LAS absy, opcode 0xBB (R630). -/
def execLasAbsy (w : Word) (s : State) : Result :=
  outcome (readClass (readAbsy w) Cpu.lasOp) s

/-- ANC imm, opcode 0x0B (R633). -/
def execAncImm0B (b1 : Byte) (s : State) : Result :=
  outcome (readClass (readImm b1) Cpu.ancOp) s

/-- ANC imm, opcode 0x2B (R633). -/
def execAncImm2B (b1 : Byte) (s : State) : Result :=
  outcome (readClass (readImm b1) Cpu.ancOp) s

/-- ALR imm, opcode 0x4B (R634). -/
def execAlrImm (b1 : Byte) (s : State) : Result :=
  outcome (readClass (readImm b1) Cpu.alrOp) s

/-- ARR imm, opcode 0x6B (R636). -/
def execArrImm (b1 : Byte) (s : State) : Result :=
  outcome (readClass (readImm b1) Cpu.arrOp) s

/-- SBX imm, opcode 0xCB (R637). -/
def execSbxImm (b1 : Byte) (s : State) : Result :=
  outcome (readClass (readImm b1) Cpu.sbxOp) s

/-- USBC imm, opcode 0xEB (R638). -/
def execUsbcImm (b1 : Byte) (s : State) : Result :=
  outcome (readClass (readImm b1) Cpu.subCore) s

/-- ANE imm, opcode 0x8B (R640). -/
def execAneImm (b1 : Byte) (s : State) : Result :=
  outcome (readClass (readImm b1) (Cpu.aneOp s.config.aneMagic)) s

/-- LXA imm, opcode 0xAB (R641). -/
def execLxaImm (b1 : Byte) (s : State) : Result :=
  outcome (readClass (readImm b1) (Cpu.lxaOp s.config.lxaMagic)) s

/-- SHA indy, opcode 0x93 (R645). -/
def execShaIndy (b1 : Byte) (s : State) : Result :=
  outcome (highStoreInd b1 (fun c => c.a &&& c.x)) s

/-- SHA absy, opcode 0x9F (R645). -/
def execShaAbsy (w : Word) (s : State) : Result :=
  outcome (highStoreAbs w (fun c => c.y) (fun c => c.a &&& c.x)) s

/-- SHX absy, opcode 0x9E (R646). -/
def execShxAbsy (w : Word) (s : State) : Result :=
  outcome (highStoreAbs w (fun c => c.y) (fun c => c.x)) s

/-- SHY absx, opcode 0x9C (R647). -/
def execShyAbsx (w : Word) (s : State) : Result :=
  outcome (highStoreAbs w (fun c => c.x) (fun c => c.y)) s

/-- TAS absy, opcode 0x9B (R648). -/
def execTasAbsy (w : Word) (s : State) : Result :=
  outcome (transferAndStore w) s

/-- NOP zp, opcode 0x04 (R650). -/
def execNopZp04 (b1 : Byte) (s : State) : Result :=
  outcome (readClass (readZp b1) noCombine) s

/-- NOP abs, opcode 0x0C (R650). -/
def execNopAbs (w : Word) (s : State) : Result :=
  outcome (readClass (readAbs w) noCombine) s

/-- NOP zpx, opcode 0x14 (R650). -/
def execNopZpx14 (b1 : Byte) (s : State) : Result :=
  outcome (readClass (readZpx b1) noCombine) s

/-- NOP imp, opcode 0x1A (R650). -/
def execNop1A (s : State) : Result :=
  outcome (impliedClass (fun c => c)) s

/-- NOP absx, opcode 0x1C (R650). -/
def execNopAbsx1C (w : Word) (s : State) : Result :=
  outcome (readClass (readAbsx w) noCombine) s

/-- NOP zpx, opcode 0x34 (R650). -/
def execNopZpx34 (b1 : Byte) (s : State) : Result :=
  outcome (readClass (readZpx b1) noCombine) s

/-- NOP imp, opcode 0x3A (R650). -/
def execNop3A (s : State) : Result :=
  outcome (impliedClass (fun c => c)) s

/-- NOP absx, opcode 0x3C (R650). -/
def execNopAbsx3C (w : Word) (s : State) : Result :=
  outcome (readClass (readAbsx w) noCombine) s

/-- NOP zp, opcode 0x44 (R650). -/
def execNopZp44 (b1 : Byte) (s : State) : Result :=
  outcome (readClass (readZp b1) noCombine) s

/-- NOP zpx, opcode 0x54 (R650). -/
def execNopZpx54 (b1 : Byte) (s : State) : Result :=
  outcome (readClass (readZpx b1) noCombine) s

/-- NOP imp, opcode 0x5A (R650). -/
def execNop5A (s : State) : Result :=
  outcome (impliedClass (fun c => c)) s

/-- NOP absx, opcode 0x5C (R650). -/
def execNopAbsx5C (w : Word) (s : State) : Result :=
  outcome (readClass (readAbsx w) noCombine) s

/-- NOP zp, opcode 0x64 (R650). -/
def execNopZp64 (b1 : Byte) (s : State) : Result :=
  outcome (readClass (readZp b1) noCombine) s

/-- NOP zpx, opcode 0x74 (R650). -/
def execNopZpx74 (b1 : Byte) (s : State) : Result :=
  outcome (readClass (readZpx b1) noCombine) s

/-- NOP imp, opcode 0x7A (R650). -/
def execNop7A (s : State) : Result :=
  outcome (impliedClass (fun c => c)) s

/-- NOP absx, opcode 0x7C (R650). -/
def execNopAbsx7C (w : Word) (s : State) : Result :=
  outcome (readClass (readAbsx w) noCombine) s

/-- NOP imm, opcode 0x80 (R650). -/
def execNopImm80 (b1 : Byte) (s : State) : Result :=
  outcome (readClass (readImm b1) noCombine) s

/-- NOP imm, opcode 0x82 (R650). -/
def execNopImm82 (b1 : Byte) (s : State) : Result :=
  outcome (readClass (readImm b1) noCombine) s

/-- NOP imm, opcode 0x89 (R650). -/
def execNopImm89 (b1 : Byte) (s : State) : Result :=
  outcome (readClass (readImm b1) noCombine) s

/-- NOP imm, opcode 0xC2 (R650). -/
def execNopImmC2 (b1 : Byte) (s : State) : Result :=
  outcome (readClass (readImm b1) noCombine) s

/-- NOP zpx, opcode 0xD4 (R650). -/
def execNopZpxD4 (b1 : Byte) (s : State) : Result :=
  outcome (readClass (readZpx b1) noCombine) s

/-- NOP imp, opcode 0xDA (R650). -/
def execNopDA (s : State) : Result :=
  outcome (impliedClass (fun c => c)) s

/-- NOP absx, opcode 0xDC (R650). -/
def execNopAbsxDC (w : Word) (s : State) : Result :=
  outcome (readClass (readAbsx w) noCombine) s

/-- NOP imm, opcode 0xE2 (R650). -/
def execNopImmE2 (b1 : Byte) (s : State) : Result :=
  outcome (readClass (readImm b1) noCombine) s

/-- NOP zpx, opcode 0xF4 (R650). -/
def execNopZpxF4 (b1 : Byte) (s : State) : Result :=
  outcome (readClass (readZpx b1) noCombine) s

/-- NOP imp, opcode 0xFA (R650). -/
def execNopFA (s : State) : Result :=
  outcome (impliedClass (fun c => c)) s

/-- NOP absx, opcode 0xFC (R650). -/
def execNopAbsxFC (w : Word) (s : State) : Result :=
  outcome (readClass (readAbsx w) noCombine) s

/-- JAM imp, opcode 0x02 (R660). -/
def execJam02 (s : State) : Result :=
  outcome (impliedClass (fun c => { c with jammed := true })) s

/-- JAM imp, opcode 0x12 (R660). -/
def execJam12 (s : State) : Result :=
  outcome (impliedClass (fun c => { c with jammed := true })) s

/-- JAM imp, opcode 0x22 (R660). -/
def execJam22 (s : State) : Result :=
  outcome (impliedClass (fun c => { c with jammed := true })) s

/-- JAM imp, opcode 0x32 (R660). -/
def execJam32 (s : State) : Result :=
  outcome (impliedClass (fun c => { c with jammed := true })) s

/-- JAM imp, opcode 0x42 (R660). -/
def execJam42 (s : State) : Result :=
  outcome (impliedClass (fun c => { c with jammed := true })) s

/-- JAM imp, opcode 0x52 (R660). -/
def execJam52 (s : State) : Result :=
  outcome (impliedClass (fun c => { c with jammed := true })) s

/-- JAM imp, opcode 0x62 (R660). -/
def execJam62 (s : State) : Result :=
  outcome (impliedClass (fun c => { c with jammed := true })) s

/-- JAM imp, opcode 0x72 (R660). -/
def execJam72 (s : State) : Result :=
  outcome (impliedClass (fun c => { c with jammed := true })) s

/-- JAM imp, opcode 0x92 (R660). -/
def execJam92 (s : State) : Result :=
  outcome (impliedClass (fun c => { c with jammed := true })) s

/-- JAM imp, opcode 0xB2 (R660). -/
def execJamB2 (s : State) : Result :=
  outcome (impliedClass (fun c => { c with jammed := true })) s

/-- JAM imp, opcode 0xD2 (R660). -/
def execJamD2 (s : State) : Result :=
  outcome (impliedClass (fun c => { c with jammed := true })) s

/-- JAM imp, opcode 0xF2 (R660). -/
def execJamF2 (s : State) : Result :=
  outcome (impliedClass (fun c => { c with jammed := true })) s

end Sys2Proof.Machine
end

