-- ==== Sys2Proof/Syntax.lean ====
section
/-! DEFINITION. The instructions: one constructor per row of spec/opcode_table.json, that is one per
opcode byte (30_encoding.md R250, R263, R265). A constructor's name is the row's mnemonic and
addressing mode; where several opcode bytes share both, the opcode byte follows in hexadecimal. The
operand of a two-byte instruction is its byte `b1` (`off` for a branch), that of a three-byte one its
little-endian word `w = b2:b1` (R251, R255). -/

namespace Sys2Proof

/-- The addressing modes (R251). -/
inductive Mode where
  | imp | acc | imm | zp | zpx | zpy | abs | absx | absy | indx | indy | ind | rel
deriving DecidableEq, Repr

/-- The length of an instruction, which its mode fixes (R250, R251, R268). -/
def Mode.length : Mode → Nat
  | .imp | .acc => 1
  | .imm | .zp | .zpx | .zpy | .indx | .indy | .rel => 2
  | .abs | .absx | .absy | .ind => 3

/-- The mnemonics of the opcode map (R263). -/
inductive Mnemonic where
  | adc | alr | anc | and | ane | arr | asl | bcc | bcs | beq
  | bit | bmi | bne | bpl | brk | bvc | bvs | clc | cld | cli
  | clv | cmp | cpx | cpy | dcp | dec | dex | dey | eor | inc
  | inx | iny | isc | jam | jmp | jsr | las | lax | lda | ldx
  | ldy | lsr | lxa | nop | ora | pha | php | pla | plp | rla
  | rol | ror | rra | rti | rts | sax | sbc | sbx | sec | sed
  | sei | sha | shx | shy | slo | sre | sta | stx | sty | tas
  | tax | tay | tsx | txa | txs | tya | usbc
deriving DecidableEq, Repr

/-- The 256 instructions (R263): those with operand bytes in opcode order, then those without. -/
inductive Instr where
  | oraIndx (b1 : Byte)
  | sloIndx (b1 : Byte)
  | nopZp04 (b1 : Byte)
  | oraZp (b1 : Byte)
  | aslZp (b1 : Byte)
  | sloZp (b1 : Byte)
  | oraImm (b1 : Byte)
  | ancImm0B (b1 : Byte)
  | nopAbs (w : Word)
  | oraAbs (w : Word)
  | aslAbs (w : Word)
  | sloAbs (w : Word)
  | bplRel (off : Byte)
  | oraIndy (b1 : Byte)
  | sloIndy (b1 : Byte)
  | nopZpx14 (b1 : Byte)
  | oraZpx (b1 : Byte)
  | aslZpx (b1 : Byte)
  | sloZpx (b1 : Byte)
  | oraAbsy (w : Word)
  | sloAbsy (w : Word)
  | nopAbsx1C (w : Word)
  | oraAbsx (w : Word)
  | aslAbsx (w : Word)
  | sloAbsx (w : Word)
  | jsrAbs (w : Word)
  | andIndx (b1 : Byte)
  | rlaIndx (b1 : Byte)
  | bitZp (b1 : Byte)
  | andZp (b1 : Byte)
  | rolZp (b1 : Byte)
  | rlaZp (b1 : Byte)
  | andImm (b1 : Byte)
  | ancImm2B (b1 : Byte)
  | bitAbs (w : Word)
  | andAbs (w : Word)
  | rolAbs (w : Word)
  | rlaAbs (w : Word)
  | bmiRel (off : Byte)
  | andIndy (b1 : Byte)
  | rlaIndy (b1 : Byte)
  | nopZpx34 (b1 : Byte)
  | andZpx (b1 : Byte)
  | rolZpx (b1 : Byte)
  | rlaZpx (b1 : Byte)
  | andAbsy (w : Word)
  | rlaAbsy (w : Word)
  | nopAbsx3C (w : Word)
  | andAbsx (w : Word)
  | rolAbsx (w : Word)
  | rlaAbsx (w : Word)
  | eorIndx (b1 : Byte)
  | sreIndx (b1 : Byte)
  | nopZp44 (b1 : Byte)
  | eorZp (b1 : Byte)
  | lsrZp (b1 : Byte)
  | sreZp (b1 : Byte)
  | eorImm (b1 : Byte)
  | alrImm (b1 : Byte)
  | jmpAbs (w : Word)
  | eorAbs (w : Word)
  | lsrAbs (w : Word)
  | sreAbs (w : Word)
  | bvcRel (off : Byte)
  | eorIndy (b1 : Byte)
  | sreIndy (b1 : Byte)
  | nopZpx54 (b1 : Byte)
  | eorZpx (b1 : Byte)
  | lsrZpx (b1 : Byte)
  | sreZpx (b1 : Byte)
  | eorAbsy (w : Word)
  | sreAbsy (w : Word)
  | nopAbsx5C (w : Word)
  | eorAbsx (w : Word)
  | lsrAbsx (w : Word)
  | sreAbsx (w : Word)
  | adcIndx (b1 : Byte)
  | rraIndx (b1 : Byte)
  | nopZp64 (b1 : Byte)
  | adcZp (b1 : Byte)
  | rorZp (b1 : Byte)
  | rraZp (b1 : Byte)
  | adcImm (b1 : Byte)
  | arrImm (b1 : Byte)
  | jmpInd (w : Word)
  | adcAbs (w : Word)
  | rorAbs (w : Word)
  | rraAbs (w : Word)
  | bvsRel (off : Byte)
  | adcIndy (b1 : Byte)
  | rraIndy (b1 : Byte)
  | nopZpx74 (b1 : Byte)
  | adcZpx (b1 : Byte)
  | rorZpx (b1 : Byte)
  | rraZpx (b1 : Byte)
  | adcAbsy (w : Word)
  | rraAbsy (w : Word)
  | nopAbsx7C (w : Word)
  | adcAbsx (w : Word)
  | rorAbsx (w : Word)
  | rraAbsx (w : Word)
  | nopImm80 (b1 : Byte)
  | staIndx (b1 : Byte)
  | nopImm82 (b1 : Byte)
  | saxIndx (b1 : Byte)
  | styZp (b1 : Byte)
  | staZp (b1 : Byte)
  | stxZp (b1 : Byte)
  | saxZp (b1 : Byte)
  | nopImm89 (b1 : Byte)
  | aneImm (b1 : Byte)
  | styAbs (w : Word)
  | staAbs (w : Word)
  | stxAbs (w : Word)
  | saxAbs (w : Word)
  | bccRel (off : Byte)
  | staIndy (b1 : Byte)
  | shaIndy (b1 : Byte)
  | styZpx (b1 : Byte)
  | staZpx (b1 : Byte)
  | stxZpy (b1 : Byte)
  | saxZpy (b1 : Byte)
  | staAbsy (w : Word)
  | tasAbsy (w : Word)
  | shyAbsx (w : Word)
  | staAbsx (w : Word)
  | shxAbsy (w : Word)
  | shaAbsy (w : Word)
  | ldyImm (b1 : Byte)
  | ldaIndx (b1 : Byte)
  | ldxImm (b1 : Byte)
  | laxIndx (b1 : Byte)
  | ldyZp (b1 : Byte)
  | ldaZp (b1 : Byte)
  | ldxZp (b1 : Byte)
  | laxZp (b1 : Byte)
  | ldaImm (b1 : Byte)
  | lxaImm (b1 : Byte)
  | ldyAbs (w : Word)
  | ldaAbs (w : Word)
  | ldxAbs (w : Word)
  | laxAbs (w : Word)
  | bcsRel (off : Byte)
  | ldaIndy (b1 : Byte)
  | laxIndy (b1 : Byte)
  | ldyZpx (b1 : Byte)
  | ldaZpx (b1 : Byte)
  | ldxZpy (b1 : Byte)
  | laxZpy (b1 : Byte)
  | ldaAbsy (w : Word)
  | lasAbsy (w : Word)
  | ldyAbsx (w : Word)
  | ldaAbsx (w : Word)
  | ldxAbsy (w : Word)
  | laxAbsy (w : Word)
  | cpyImm (b1 : Byte)
  | cmpIndx (b1 : Byte)
  | nopImmC2 (b1 : Byte)
  | dcpIndx (b1 : Byte)
  | cpyZp (b1 : Byte)
  | cmpZp (b1 : Byte)
  | decZp (b1 : Byte)
  | dcpZp (b1 : Byte)
  | cmpImm (b1 : Byte)
  | sbxImm (b1 : Byte)
  | cpyAbs (w : Word)
  | cmpAbs (w : Word)
  | decAbs (w : Word)
  | dcpAbs (w : Word)
  | bneRel (off : Byte)
  | cmpIndy (b1 : Byte)
  | dcpIndy (b1 : Byte)
  | nopZpxD4 (b1 : Byte)
  | cmpZpx (b1 : Byte)
  | decZpx (b1 : Byte)
  | dcpZpx (b1 : Byte)
  | cmpAbsy (w : Word)
  | dcpAbsy (w : Word)
  | nopAbsxDC (w : Word)
  | cmpAbsx (w : Word)
  | decAbsx (w : Word)
  | dcpAbsx (w : Word)
  | cpxImm (b1 : Byte)
  | sbcIndx (b1 : Byte)
  | nopImmE2 (b1 : Byte)
  | iscIndx (b1 : Byte)
  | cpxZp (b1 : Byte)
  | sbcZp (b1 : Byte)
  | incZp (b1 : Byte)
  | iscZp (b1 : Byte)
  | sbcImm (b1 : Byte)
  | usbcImm (b1 : Byte)
  | cpxAbs (w : Word)
  | sbcAbs (w : Word)
  | incAbs (w : Word)
  | iscAbs (w : Word)
  | beqRel (off : Byte)
  | sbcIndy (b1 : Byte)
  | iscIndy (b1 : Byte)
  | nopZpxF4 (b1 : Byte)
  | sbcZpx (b1 : Byte)
  | incZpx (b1 : Byte)
  | iscZpx (b1 : Byte)
  | sbcAbsy (w : Word)
  | iscAbsy (w : Word)
  | nopAbsxFC (w : Word)
  | sbcAbsx (w : Word)
  | incAbsx (w : Word)
  | iscAbsx (w : Word)
  | brk
  | jam02
  | php
  | aslAcc
  | jam12
  | clc
  | nop1A
  | jam22
  | plp
  | rolAcc
  | jam32
  | sec
  | nop3A
  | rti
  | jam42
  | pha
  | lsrAcc
  | jam52
  | cli
  | nop5A
  | rts
  | jam62
  | pla
  | rorAcc
  | jam72
  | sei
  | nop7A
  | dey
  | txa
  | jam92
  | tya
  | txs
  | tay
  | tax
  | jamB2
  | clv
  | tsx
  | iny
  | dex
  | jamD2
  | cld
  | nopDA
  | inx
  | nop
  | jamF2
  | sed
  | nopFA
deriving DecidableEq, Repr

/-- The mnemonic of an instruction (R263). -/
def Instr.mnemonic : Instr → Mnemonic
  | .brk => .brk
  | .oraIndx _ => .ora
  | .jam02 => .jam
  | .sloIndx _ => .slo
  | .nopZp04 _ => .nop
  | .oraZp _ => .ora
  | .aslZp _ => .asl
  | .sloZp _ => .slo
  | .php => .php
  | .oraImm _ => .ora
  | .aslAcc => .asl
  | .ancImm0B _ => .anc
  | .nopAbs _ => .nop
  | .oraAbs _ => .ora
  | .aslAbs _ => .asl
  | .sloAbs _ => .slo
  | .bplRel _ => .bpl
  | .oraIndy _ => .ora
  | .jam12 => .jam
  | .sloIndy _ => .slo
  | .nopZpx14 _ => .nop
  | .oraZpx _ => .ora
  | .aslZpx _ => .asl
  | .sloZpx _ => .slo
  | .clc => .clc
  | .oraAbsy _ => .ora
  | .nop1A => .nop
  | .sloAbsy _ => .slo
  | .nopAbsx1C _ => .nop
  | .oraAbsx _ => .ora
  | .aslAbsx _ => .asl
  | .sloAbsx _ => .slo
  | .jsrAbs _ => .jsr
  | .andIndx _ => .and
  | .jam22 => .jam
  | .rlaIndx _ => .rla
  | .bitZp _ => .bit
  | .andZp _ => .and
  | .rolZp _ => .rol
  | .rlaZp _ => .rla
  | .plp => .plp
  | .andImm _ => .and
  | .rolAcc => .rol
  | .ancImm2B _ => .anc
  | .bitAbs _ => .bit
  | .andAbs _ => .and
  | .rolAbs _ => .rol
  | .rlaAbs _ => .rla
  | .bmiRel _ => .bmi
  | .andIndy _ => .and
  | .jam32 => .jam
  | .rlaIndy _ => .rla
  | .nopZpx34 _ => .nop
  | .andZpx _ => .and
  | .rolZpx _ => .rol
  | .rlaZpx _ => .rla
  | .sec => .sec
  | .andAbsy _ => .and
  | .nop3A => .nop
  | .rlaAbsy _ => .rla
  | .nopAbsx3C _ => .nop
  | .andAbsx _ => .and
  | .rolAbsx _ => .rol
  | .rlaAbsx _ => .rla
  | .rti => .rti
  | .eorIndx _ => .eor
  | .jam42 => .jam
  | .sreIndx _ => .sre
  | .nopZp44 _ => .nop
  | .eorZp _ => .eor
  | .lsrZp _ => .lsr
  | .sreZp _ => .sre
  | .pha => .pha
  | .eorImm _ => .eor
  | .lsrAcc => .lsr
  | .alrImm _ => .alr
  | .jmpAbs _ => .jmp
  | .eorAbs _ => .eor
  | .lsrAbs _ => .lsr
  | .sreAbs _ => .sre
  | .bvcRel _ => .bvc
  | .eorIndy _ => .eor
  | .jam52 => .jam
  | .sreIndy _ => .sre
  | .nopZpx54 _ => .nop
  | .eorZpx _ => .eor
  | .lsrZpx _ => .lsr
  | .sreZpx _ => .sre
  | .cli => .cli
  | .eorAbsy _ => .eor
  | .nop5A => .nop
  | .sreAbsy _ => .sre
  | .nopAbsx5C _ => .nop
  | .eorAbsx _ => .eor
  | .lsrAbsx _ => .lsr
  | .sreAbsx _ => .sre
  | .rts => .rts
  | .adcIndx _ => .adc
  | .jam62 => .jam
  | .rraIndx _ => .rra
  | .nopZp64 _ => .nop
  | .adcZp _ => .adc
  | .rorZp _ => .ror
  | .rraZp _ => .rra
  | .pla => .pla
  | .adcImm _ => .adc
  | .rorAcc => .ror
  | .arrImm _ => .arr
  | .jmpInd _ => .jmp
  | .adcAbs _ => .adc
  | .rorAbs _ => .ror
  | .rraAbs _ => .rra
  | .bvsRel _ => .bvs
  | .adcIndy _ => .adc
  | .jam72 => .jam
  | .rraIndy _ => .rra
  | .nopZpx74 _ => .nop
  | .adcZpx _ => .adc
  | .rorZpx _ => .ror
  | .rraZpx _ => .rra
  | .sei => .sei
  | .adcAbsy _ => .adc
  | .nop7A => .nop
  | .rraAbsy _ => .rra
  | .nopAbsx7C _ => .nop
  | .adcAbsx _ => .adc
  | .rorAbsx _ => .ror
  | .rraAbsx _ => .rra
  | .nopImm80 _ => .nop
  | .staIndx _ => .sta
  | .nopImm82 _ => .nop
  | .saxIndx _ => .sax
  | .styZp _ => .sty
  | .staZp _ => .sta
  | .stxZp _ => .stx
  | .saxZp _ => .sax
  | .dey => .dey
  | .nopImm89 _ => .nop
  | .txa => .txa
  | .aneImm _ => .ane
  | .styAbs _ => .sty
  | .staAbs _ => .sta
  | .stxAbs _ => .stx
  | .saxAbs _ => .sax
  | .bccRel _ => .bcc
  | .staIndy _ => .sta
  | .jam92 => .jam
  | .shaIndy _ => .sha
  | .styZpx _ => .sty
  | .staZpx _ => .sta
  | .stxZpy _ => .stx
  | .saxZpy _ => .sax
  | .tya => .tya
  | .staAbsy _ => .sta
  | .txs => .txs
  | .tasAbsy _ => .tas
  | .shyAbsx _ => .shy
  | .staAbsx _ => .sta
  | .shxAbsy _ => .shx
  | .shaAbsy _ => .sha
  | .ldyImm _ => .ldy
  | .ldaIndx _ => .lda
  | .ldxImm _ => .ldx
  | .laxIndx _ => .lax
  | .ldyZp _ => .ldy
  | .ldaZp _ => .lda
  | .ldxZp _ => .ldx
  | .laxZp _ => .lax
  | .tay => .tay
  | .ldaImm _ => .lda
  | .tax => .tax
  | .lxaImm _ => .lxa
  | .ldyAbs _ => .ldy
  | .ldaAbs _ => .lda
  | .ldxAbs _ => .ldx
  | .laxAbs _ => .lax
  | .bcsRel _ => .bcs
  | .ldaIndy _ => .lda
  | .jamB2 => .jam
  | .laxIndy _ => .lax
  | .ldyZpx _ => .ldy
  | .ldaZpx _ => .lda
  | .ldxZpy _ => .ldx
  | .laxZpy _ => .lax
  | .clv => .clv
  | .ldaAbsy _ => .lda
  | .tsx => .tsx
  | .lasAbsy _ => .las
  | .ldyAbsx _ => .ldy
  | .ldaAbsx _ => .lda
  | .ldxAbsy _ => .ldx
  | .laxAbsy _ => .lax
  | .cpyImm _ => .cpy
  | .cmpIndx _ => .cmp
  | .nopImmC2 _ => .nop
  | .dcpIndx _ => .dcp
  | .cpyZp _ => .cpy
  | .cmpZp _ => .cmp
  | .decZp _ => .dec
  | .dcpZp _ => .dcp
  | .iny => .iny
  | .cmpImm _ => .cmp
  | .dex => .dex
  | .sbxImm _ => .sbx
  | .cpyAbs _ => .cpy
  | .cmpAbs _ => .cmp
  | .decAbs _ => .dec
  | .dcpAbs _ => .dcp
  | .bneRel _ => .bne
  | .cmpIndy _ => .cmp
  | .jamD2 => .jam
  | .dcpIndy _ => .dcp
  | .nopZpxD4 _ => .nop
  | .cmpZpx _ => .cmp
  | .decZpx _ => .dec
  | .dcpZpx _ => .dcp
  | .cld => .cld
  | .cmpAbsy _ => .cmp
  | .nopDA => .nop
  | .dcpAbsy _ => .dcp
  | .nopAbsxDC _ => .nop
  | .cmpAbsx _ => .cmp
  | .decAbsx _ => .dec
  | .dcpAbsx _ => .dcp
  | .cpxImm _ => .cpx
  | .sbcIndx _ => .sbc
  | .nopImmE2 _ => .nop
  | .iscIndx _ => .isc
  | .cpxZp _ => .cpx
  | .sbcZp _ => .sbc
  | .incZp _ => .inc
  | .iscZp _ => .isc
  | .inx => .inx
  | .sbcImm _ => .sbc
  | .nop => .nop
  | .usbcImm _ => .usbc
  | .cpxAbs _ => .cpx
  | .sbcAbs _ => .sbc
  | .incAbs _ => .inc
  | .iscAbs _ => .isc
  | .beqRel _ => .beq
  | .sbcIndy _ => .sbc
  | .jamF2 => .jam
  | .iscIndy _ => .isc
  | .nopZpxF4 _ => .nop
  | .sbcZpx _ => .sbc
  | .incZpx _ => .inc
  | .iscZpx _ => .isc
  | .sed => .sed
  | .sbcAbsy _ => .sbc
  | .nopFA => .nop
  | .iscAbsy _ => .isc
  | .nopAbsxFC _ => .nop
  | .sbcAbsx _ => .sbc
  | .incAbsx _ => .inc
  | .iscAbsx _ => .isc

/-- The addressing mode of an instruction (R263). -/
def Instr.mode : Instr → Mode
  | .brk => .imp
  | .oraIndx _ => .indx
  | .jam02 => .imp
  | .sloIndx _ => .indx
  | .nopZp04 _ => .zp
  | .oraZp _ => .zp
  | .aslZp _ => .zp
  | .sloZp _ => .zp
  | .php => .imp
  | .oraImm _ => .imm
  | .aslAcc => .acc
  | .ancImm0B _ => .imm
  | .nopAbs _ => .abs
  | .oraAbs _ => .abs
  | .aslAbs _ => .abs
  | .sloAbs _ => .abs
  | .bplRel _ => .rel
  | .oraIndy _ => .indy
  | .jam12 => .imp
  | .sloIndy _ => .indy
  | .nopZpx14 _ => .zpx
  | .oraZpx _ => .zpx
  | .aslZpx _ => .zpx
  | .sloZpx _ => .zpx
  | .clc => .imp
  | .oraAbsy _ => .absy
  | .nop1A => .imp
  | .sloAbsy _ => .absy
  | .nopAbsx1C _ => .absx
  | .oraAbsx _ => .absx
  | .aslAbsx _ => .absx
  | .sloAbsx _ => .absx
  | .jsrAbs _ => .abs
  | .andIndx _ => .indx
  | .jam22 => .imp
  | .rlaIndx _ => .indx
  | .bitZp _ => .zp
  | .andZp _ => .zp
  | .rolZp _ => .zp
  | .rlaZp _ => .zp
  | .plp => .imp
  | .andImm _ => .imm
  | .rolAcc => .acc
  | .ancImm2B _ => .imm
  | .bitAbs _ => .abs
  | .andAbs _ => .abs
  | .rolAbs _ => .abs
  | .rlaAbs _ => .abs
  | .bmiRel _ => .rel
  | .andIndy _ => .indy
  | .jam32 => .imp
  | .rlaIndy _ => .indy
  | .nopZpx34 _ => .zpx
  | .andZpx _ => .zpx
  | .rolZpx _ => .zpx
  | .rlaZpx _ => .zpx
  | .sec => .imp
  | .andAbsy _ => .absy
  | .nop3A => .imp
  | .rlaAbsy _ => .absy
  | .nopAbsx3C _ => .absx
  | .andAbsx _ => .absx
  | .rolAbsx _ => .absx
  | .rlaAbsx _ => .absx
  | .rti => .imp
  | .eorIndx _ => .indx
  | .jam42 => .imp
  | .sreIndx _ => .indx
  | .nopZp44 _ => .zp
  | .eorZp _ => .zp
  | .lsrZp _ => .zp
  | .sreZp _ => .zp
  | .pha => .imp
  | .eorImm _ => .imm
  | .lsrAcc => .acc
  | .alrImm _ => .imm
  | .jmpAbs _ => .abs
  | .eorAbs _ => .abs
  | .lsrAbs _ => .abs
  | .sreAbs _ => .abs
  | .bvcRel _ => .rel
  | .eorIndy _ => .indy
  | .jam52 => .imp
  | .sreIndy _ => .indy
  | .nopZpx54 _ => .zpx
  | .eorZpx _ => .zpx
  | .lsrZpx _ => .zpx
  | .sreZpx _ => .zpx
  | .cli => .imp
  | .eorAbsy _ => .absy
  | .nop5A => .imp
  | .sreAbsy _ => .absy
  | .nopAbsx5C _ => .absx
  | .eorAbsx _ => .absx
  | .lsrAbsx _ => .absx
  | .sreAbsx _ => .absx
  | .rts => .imp
  | .adcIndx _ => .indx
  | .jam62 => .imp
  | .rraIndx _ => .indx
  | .nopZp64 _ => .zp
  | .adcZp _ => .zp
  | .rorZp _ => .zp
  | .rraZp _ => .zp
  | .pla => .imp
  | .adcImm _ => .imm
  | .rorAcc => .acc
  | .arrImm _ => .imm
  | .jmpInd _ => .ind
  | .adcAbs _ => .abs
  | .rorAbs _ => .abs
  | .rraAbs _ => .abs
  | .bvsRel _ => .rel
  | .adcIndy _ => .indy
  | .jam72 => .imp
  | .rraIndy _ => .indy
  | .nopZpx74 _ => .zpx
  | .adcZpx _ => .zpx
  | .rorZpx _ => .zpx
  | .rraZpx _ => .zpx
  | .sei => .imp
  | .adcAbsy _ => .absy
  | .nop7A => .imp
  | .rraAbsy _ => .absy
  | .nopAbsx7C _ => .absx
  | .adcAbsx _ => .absx
  | .rorAbsx _ => .absx
  | .rraAbsx _ => .absx
  | .nopImm80 _ => .imm
  | .staIndx _ => .indx
  | .nopImm82 _ => .imm
  | .saxIndx _ => .indx
  | .styZp _ => .zp
  | .staZp _ => .zp
  | .stxZp _ => .zp
  | .saxZp _ => .zp
  | .dey => .imp
  | .nopImm89 _ => .imm
  | .txa => .imp
  | .aneImm _ => .imm
  | .styAbs _ => .abs
  | .staAbs _ => .abs
  | .stxAbs _ => .abs
  | .saxAbs _ => .abs
  | .bccRel _ => .rel
  | .staIndy _ => .indy
  | .jam92 => .imp
  | .shaIndy _ => .indy
  | .styZpx _ => .zpx
  | .staZpx _ => .zpx
  | .stxZpy _ => .zpy
  | .saxZpy _ => .zpy
  | .tya => .imp
  | .staAbsy _ => .absy
  | .txs => .imp
  | .tasAbsy _ => .absy
  | .shyAbsx _ => .absx
  | .staAbsx _ => .absx
  | .shxAbsy _ => .absy
  | .shaAbsy _ => .absy
  | .ldyImm _ => .imm
  | .ldaIndx _ => .indx
  | .ldxImm _ => .imm
  | .laxIndx _ => .indx
  | .ldyZp _ => .zp
  | .ldaZp _ => .zp
  | .ldxZp _ => .zp
  | .laxZp _ => .zp
  | .tay => .imp
  | .ldaImm _ => .imm
  | .tax => .imp
  | .lxaImm _ => .imm
  | .ldyAbs _ => .abs
  | .ldaAbs _ => .abs
  | .ldxAbs _ => .abs
  | .laxAbs _ => .abs
  | .bcsRel _ => .rel
  | .ldaIndy _ => .indy
  | .jamB2 => .imp
  | .laxIndy _ => .indy
  | .ldyZpx _ => .zpx
  | .ldaZpx _ => .zpx
  | .ldxZpy _ => .zpy
  | .laxZpy _ => .zpy
  | .clv => .imp
  | .ldaAbsy _ => .absy
  | .tsx => .imp
  | .lasAbsy _ => .absy
  | .ldyAbsx _ => .absx
  | .ldaAbsx _ => .absx
  | .ldxAbsy _ => .absy
  | .laxAbsy _ => .absy
  | .cpyImm _ => .imm
  | .cmpIndx _ => .indx
  | .nopImmC2 _ => .imm
  | .dcpIndx _ => .indx
  | .cpyZp _ => .zp
  | .cmpZp _ => .zp
  | .decZp _ => .zp
  | .dcpZp _ => .zp
  | .iny => .imp
  | .cmpImm _ => .imm
  | .dex => .imp
  | .sbxImm _ => .imm
  | .cpyAbs _ => .abs
  | .cmpAbs _ => .abs
  | .decAbs _ => .abs
  | .dcpAbs _ => .abs
  | .bneRel _ => .rel
  | .cmpIndy _ => .indy
  | .jamD2 => .imp
  | .dcpIndy _ => .indy
  | .nopZpxD4 _ => .zpx
  | .cmpZpx _ => .zpx
  | .decZpx _ => .zpx
  | .dcpZpx _ => .zpx
  | .cld => .imp
  | .cmpAbsy _ => .absy
  | .nopDA => .imp
  | .dcpAbsy _ => .absy
  | .nopAbsxDC _ => .absx
  | .cmpAbsx _ => .absx
  | .decAbsx _ => .absx
  | .dcpAbsx _ => .absx
  | .cpxImm _ => .imm
  | .sbcIndx _ => .indx
  | .nopImmE2 _ => .imm
  | .iscIndx _ => .indx
  | .cpxZp _ => .zp
  | .sbcZp _ => .zp
  | .incZp _ => .zp
  | .iscZp _ => .zp
  | .inx => .imp
  | .sbcImm _ => .imm
  | .nop => .imp
  | .usbcImm _ => .imm
  | .cpxAbs _ => .abs
  | .sbcAbs _ => .abs
  | .incAbs _ => .abs
  | .iscAbs _ => .abs
  | .beqRel _ => .rel
  | .sbcIndy _ => .indy
  | .jamF2 => .imp
  | .iscIndy _ => .indy
  | .nopZpxF4 _ => .zpx
  | .sbcZpx _ => .zpx
  | .incZpx _ => .zpx
  | .iscZpx _ => .zpx
  | .sed => .imp
  | .sbcAbsy _ => .absy
  | .nopFA => .imp
  | .iscAbsy _ => .absy
  | .nopAbsxFC _ => .absx
  | .sbcAbsx _ => .absx
  | .incAbsx _ => .absx
  | .iscAbsx _ => .absx

end Sys2Proof
end

