-- ==== Sys2Proof/Machine/Dispatch.lean ====
section
/-! DEFINITION. What each instruction does, one arm per constructor, from the state in which its bytes
have just been fetched. -/

namespace Sys2Proof.Machine

def exec (i : Instr) (s : State) : Host.Outcome State Fault Refusal :=
  match i with
  | .brk => Sys2Proof.Machine.execBrk s
  | .oraIndx b1 => Sys2Proof.Machine.execOraIndx b1 s
  | .jam02 => Sys2Proof.Machine.execJam02 s
  | .sloIndx b1 => Sys2Proof.Machine.execSloIndx b1 s
  | .nopZp04 b1 => Sys2Proof.Machine.execNopZp04 b1 s
  | .oraZp b1 => Sys2Proof.Machine.execOraZp b1 s
  | .aslZp b1 => Sys2Proof.Machine.execAslZp b1 s
  | .sloZp b1 => Sys2Proof.Machine.execSloZp b1 s
  | .php => Sys2Proof.Machine.execPhp s
  | .oraImm b1 => Sys2Proof.Machine.execOraImm b1 s
  | .aslAcc => Sys2Proof.Machine.execAslAcc s
  | .ancImm0B b1 => Sys2Proof.Machine.execAncImm0B b1 s
  | .nopAbs w => Sys2Proof.Machine.execNopAbs w s
  | .oraAbs w => Sys2Proof.Machine.execOraAbs w s
  | .aslAbs w => Sys2Proof.Machine.execAslAbs w s
  | .sloAbs w => Sys2Proof.Machine.execSloAbs w s
  | .bplRel off => Sys2Proof.Machine.execBplRel off s
  | .oraIndy b1 => Sys2Proof.Machine.execOraIndy b1 s
  | .jam12 => Sys2Proof.Machine.execJam12 s
  | .sloIndy b1 => Sys2Proof.Machine.execSloIndy b1 s
  | .nopZpx14 b1 => Sys2Proof.Machine.execNopZpx14 b1 s
  | .oraZpx b1 => Sys2Proof.Machine.execOraZpx b1 s
  | .aslZpx b1 => Sys2Proof.Machine.execAslZpx b1 s
  | .sloZpx b1 => Sys2Proof.Machine.execSloZpx b1 s
  | .clc => Sys2Proof.Machine.execClc s
  | .oraAbsy w => Sys2Proof.Machine.execOraAbsy w s
  | .nop1A => Sys2Proof.Machine.execNop1A s
  | .sloAbsy w => Sys2Proof.Machine.execSloAbsy w s
  | .nopAbsx1C w => Sys2Proof.Machine.execNopAbsx1C w s
  | .oraAbsx w => Sys2Proof.Machine.execOraAbsx w s
  | .aslAbsx w => Sys2Proof.Machine.execAslAbsx w s
  | .sloAbsx w => Sys2Proof.Machine.execSloAbsx w s
  | .jsrAbs w => Sys2Proof.Machine.execJsrAbs w s
  | .andIndx b1 => Sys2Proof.Machine.execAndIndx b1 s
  | .jam22 => Sys2Proof.Machine.execJam22 s
  | .rlaIndx b1 => Sys2Proof.Machine.execRlaIndx b1 s
  | .bitZp b1 => Sys2Proof.Machine.execBitZp b1 s
  | .andZp b1 => Sys2Proof.Machine.execAndZp b1 s
  | .rolZp b1 => Sys2Proof.Machine.execRolZp b1 s
  | .rlaZp b1 => Sys2Proof.Machine.execRlaZp b1 s
  | .plp => Sys2Proof.Machine.execPlp s
  | .andImm b1 => Sys2Proof.Machine.execAndImm b1 s
  | .rolAcc => Sys2Proof.Machine.execRolAcc s
  | .ancImm2B b1 => Sys2Proof.Machine.execAncImm2B b1 s
  | .bitAbs w => Sys2Proof.Machine.execBitAbs w s
  | .andAbs w => Sys2Proof.Machine.execAndAbs w s
  | .rolAbs w => Sys2Proof.Machine.execRolAbs w s
  | .rlaAbs w => Sys2Proof.Machine.execRlaAbs w s
  | .bmiRel off => Sys2Proof.Machine.execBmiRel off s
  | .andIndy b1 => Sys2Proof.Machine.execAndIndy b1 s
  | .jam32 => Sys2Proof.Machine.execJam32 s
  | .rlaIndy b1 => Sys2Proof.Machine.execRlaIndy b1 s
  | .nopZpx34 b1 => Sys2Proof.Machine.execNopZpx34 b1 s
  | .andZpx b1 => Sys2Proof.Machine.execAndZpx b1 s
  | .rolZpx b1 => Sys2Proof.Machine.execRolZpx b1 s
  | .rlaZpx b1 => Sys2Proof.Machine.execRlaZpx b1 s
  | .sec => Sys2Proof.Machine.execSec s
  | .andAbsy w => Sys2Proof.Machine.execAndAbsy w s
  | .nop3A => Sys2Proof.Machine.execNop3A s
  | .rlaAbsy w => Sys2Proof.Machine.execRlaAbsy w s
  | .nopAbsx3C w => Sys2Proof.Machine.execNopAbsx3C w s
  | .andAbsx w => Sys2Proof.Machine.execAndAbsx w s
  | .rolAbsx w => Sys2Proof.Machine.execRolAbsx w s
  | .rlaAbsx w => Sys2Proof.Machine.execRlaAbsx w s
  | .rti => Sys2Proof.Machine.execRti s
  | .eorIndx b1 => Sys2Proof.Machine.execEorIndx b1 s
  | .jam42 => Sys2Proof.Machine.execJam42 s
  | .sreIndx b1 => Sys2Proof.Machine.execSreIndx b1 s
  | .nopZp44 b1 => Sys2Proof.Machine.execNopZp44 b1 s
  | .eorZp b1 => Sys2Proof.Machine.execEorZp b1 s
  | .lsrZp b1 => Sys2Proof.Machine.execLsrZp b1 s
  | .sreZp b1 => Sys2Proof.Machine.execSreZp b1 s
  | .pha => Sys2Proof.Machine.execPha s
  | .eorImm b1 => Sys2Proof.Machine.execEorImm b1 s
  | .lsrAcc => Sys2Proof.Machine.execLsrAcc s
  | .alrImm b1 => Sys2Proof.Machine.execAlrImm b1 s
  | .jmpAbs w => Sys2Proof.Machine.execJmpAbs w s
  | .eorAbs w => Sys2Proof.Machine.execEorAbs w s
  | .lsrAbs w => Sys2Proof.Machine.execLsrAbs w s
  | .sreAbs w => Sys2Proof.Machine.execSreAbs w s
  | .bvcRel off => Sys2Proof.Machine.execBvcRel off s
  | .eorIndy b1 => Sys2Proof.Machine.execEorIndy b1 s
  | .jam52 => Sys2Proof.Machine.execJam52 s
  | .sreIndy b1 => Sys2Proof.Machine.execSreIndy b1 s
  | .nopZpx54 b1 => Sys2Proof.Machine.execNopZpx54 b1 s
  | .eorZpx b1 => Sys2Proof.Machine.execEorZpx b1 s
  | .lsrZpx b1 => Sys2Proof.Machine.execLsrZpx b1 s
  | .sreZpx b1 => Sys2Proof.Machine.execSreZpx b1 s
  | .cli => Sys2Proof.Machine.execCli s
  | .eorAbsy w => Sys2Proof.Machine.execEorAbsy w s
  | .nop5A => Sys2Proof.Machine.execNop5A s
  | .sreAbsy w => Sys2Proof.Machine.execSreAbsy w s
  | .nopAbsx5C w => Sys2Proof.Machine.execNopAbsx5C w s
  | .eorAbsx w => Sys2Proof.Machine.execEorAbsx w s
  | .lsrAbsx w => Sys2Proof.Machine.execLsrAbsx w s
  | .sreAbsx w => Sys2Proof.Machine.execSreAbsx w s
  | .rts => Sys2Proof.Machine.execRts s
  | .adcIndx b1 => Sys2Proof.Machine.execAdcIndx b1 s
  | .jam62 => Sys2Proof.Machine.execJam62 s
  | .rraIndx b1 => Sys2Proof.Machine.execRraIndx b1 s
  | .nopZp64 b1 => Sys2Proof.Machine.execNopZp64 b1 s
  | .adcZp b1 => Sys2Proof.Machine.execAdcZp b1 s
  | .rorZp b1 => Sys2Proof.Machine.execRorZp b1 s
  | .rraZp b1 => Sys2Proof.Machine.execRraZp b1 s
  | .pla => Sys2Proof.Machine.execPla s
  | .adcImm b1 => Sys2Proof.Machine.execAdcImm b1 s
  | .rorAcc => Sys2Proof.Machine.execRorAcc s
  | .arrImm b1 => Sys2Proof.Machine.execArrImm b1 s
  | .jmpInd w => Sys2Proof.Machine.execJmpInd w s
  | .adcAbs w => Sys2Proof.Machine.execAdcAbs w s
  | .rorAbs w => Sys2Proof.Machine.execRorAbs w s
  | .rraAbs w => Sys2Proof.Machine.execRraAbs w s
  | .bvsRel off => Sys2Proof.Machine.execBvsRel off s
  | .adcIndy b1 => Sys2Proof.Machine.execAdcIndy b1 s
  | .jam72 => Sys2Proof.Machine.execJam72 s
  | .rraIndy b1 => Sys2Proof.Machine.execRraIndy b1 s
  | .nopZpx74 b1 => Sys2Proof.Machine.execNopZpx74 b1 s
  | .adcZpx b1 => Sys2Proof.Machine.execAdcZpx b1 s
  | .rorZpx b1 => Sys2Proof.Machine.execRorZpx b1 s
  | .rraZpx b1 => Sys2Proof.Machine.execRraZpx b1 s
  | .sei => Sys2Proof.Machine.execSei s
  | .adcAbsy w => Sys2Proof.Machine.execAdcAbsy w s
  | .nop7A => Sys2Proof.Machine.execNop7A s
  | .rraAbsy w => Sys2Proof.Machine.execRraAbsy w s
  | .nopAbsx7C w => Sys2Proof.Machine.execNopAbsx7C w s
  | .adcAbsx w => Sys2Proof.Machine.execAdcAbsx w s
  | .rorAbsx w => Sys2Proof.Machine.execRorAbsx w s
  | .rraAbsx w => Sys2Proof.Machine.execRraAbsx w s
  | .nopImm80 b1 => Sys2Proof.Machine.execNopImm80 b1 s
  | .staIndx b1 => Sys2Proof.Machine.execStaIndx b1 s
  | .nopImm82 b1 => Sys2Proof.Machine.execNopImm82 b1 s
  | .saxIndx b1 => Sys2Proof.Machine.execSaxIndx b1 s
  | .styZp b1 => Sys2Proof.Machine.execStyZp b1 s
  | .staZp b1 => Sys2Proof.Machine.execStaZp b1 s
  | .stxZp b1 => Sys2Proof.Machine.execStxZp b1 s
  | .saxZp b1 => Sys2Proof.Machine.execSaxZp b1 s
  | .dey => Sys2Proof.Machine.execDey s
  | .nopImm89 b1 => Sys2Proof.Machine.execNopImm89 b1 s
  | .txa => Sys2Proof.Machine.execTxa s
  | .aneImm b1 => Sys2Proof.Machine.execAneImm b1 s
  | .styAbs w => Sys2Proof.Machine.execStyAbs w s
  | .staAbs w => Sys2Proof.Machine.execStaAbs w s
  | .stxAbs w => Sys2Proof.Machine.execStxAbs w s
  | .saxAbs w => Sys2Proof.Machine.execSaxAbs w s
  | .bccRel off => Sys2Proof.Machine.execBccRel off s
  | .staIndy b1 => Sys2Proof.Machine.execStaIndy b1 s
  | .jam92 => Sys2Proof.Machine.execJam92 s
  | .shaIndy b1 => Sys2Proof.Machine.execShaIndy b1 s
  | .styZpx b1 => Sys2Proof.Machine.execStyZpx b1 s
  | .staZpx b1 => Sys2Proof.Machine.execStaZpx b1 s
  | .stxZpy b1 => Sys2Proof.Machine.execStxZpy b1 s
  | .saxZpy b1 => Sys2Proof.Machine.execSaxZpy b1 s
  | .tya => Sys2Proof.Machine.execTya s
  | .staAbsy w => Sys2Proof.Machine.execStaAbsy w s
  | .txs => Sys2Proof.Machine.execTxs s
  | .tasAbsy w => Sys2Proof.Machine.execTasAbsy w s
  | .shyAbsx w => Sys2Proof.Machine.execShyAbsx w s
  | .staAbsx w => Sys2Proof.Machine.execStaAbsx w s
  | .shxAbsy w => Sys2Proof.Machine.execShxAbsy w s
  | .shaAbsy w => Sys2Proof.Machine.execShaAbsy w s
  | .ldyImm b1 => Sys2Proof.Machine.execLdyImm b1 s
  | .ldaIndx b1 => Sys2Proof.Machine.execLdaIndx b1 s
  | .ldxImm b1 => Sys2Proof.Machine.execLdxImm b1 s
  | .laxIndx b1 => Sys2Proof.Machine.execLaxIndx b1 s
  | .ldyZp b1 => Sys2Proof.Machine.execLdyZp b1 s
  | .ldaZp b1 => Sys2Proof.Machine.execLdaZp b1 s
  | .ldxZp b1 => Sys2Proof.Machine.execLdxZp b1 s
  | .laxZp b1 => Sys2Proof.Machine.execLaxZp b1 s
  | .tay => Sys2Proof.Machine.execTay s
  | .ldaImm b1 => Sys2Proof.Machine.execLdaImm b1 s
  | .tax => Sys2Proof.Machine.execTax s
  | .lxaImm b1 => Sys2Proof.Machine.execLxaImm b1 s
  | .ldyAbs w => Sys2Proof.Machine.execLdyAbs w s
  | .ldaAbs w => Sys2Proof.Machine.execLdaAbs w s
  | .ldxAbs w => Sys2Proof.Machine.execLdxAbs w s
  | .laxAbs w => Sys2Proof.Machine.execLaxAbs w s
  | .bcsRel off => Sys2Proof.Machine.execBcsRel off s
  | .ldaIndy b1 => Sys2Proof.Machine.execLdaIndy b1 s
  | .jamB2 => Sys2Proof.Machine.execJamB2 s
  | .laxIndy b1 => Sys2Proof.Machine.execLaxIndy b1 s
  | .ldyZpx b1 => Sys2Proof.Machine.execLdyZpx b1 s
  | .ldaZpx b1 => Sys2Proof.Machine.execLdaZpx b1 s
  | .ldxZpy b1 => Sys2Proof.Machine.execLdxZpy b1 s
  | .laxZpy b1 => Sys2Proof.Machine.execLaxZpy b1 s
  | .clv => Sys2Proof.Machine.execClv s
  | .ldaAbsy w => Sys2Proof.Machine.execLdaAbsy w s
  | .tsx => Sys2Proof.Machine.execTsx s
  | .lasAbsy w => Sys2Proof.Machine.execLasAbsy w s
  | .ldyAbsx w => Sys2Proof.Machine.execLdyAbsx w s
  | .ldaAbsx w => Sys2Proof.Machine.execLdaAbsx w s
  | .ldxAbsy w => Sys2Proof.Machine.execLdxAbsy w s
  | .laxAbsy w => Sys2Proof.Machine.execLaxAbsy w s
  | .cpyImm b1 => Sys2Proof.Machine.execCpyImm b1 s
  | .cmpIndx b1 => Sys2Proof.Machine.execCmpIndx b1 s
  | .nopImmC2 b1 => Sys2Proof.Machine.execNopImmC2 b1 s
  | .dcpIndx b1 => Sys2Proof.Machine.execDcpIndx b1 s
  | .cpyZp b1 => Sys2Proof.Machine.execCpyZp b1 s
  | .cmpZp b1 => Sys2Proof.Machine.execCmpZp b1 s
  | .decZp b1 => Sys2Proof.Machine.execDecZp b1 s
  | .dcpZp b1 => Sys2Proof.Machine.execDcpZp b1 s
  | .iny => Sys2Proof.Machine.execIny s
  | .cmpImm b1 => Sys2Proof.Machine.execCmpImm b1 s
  | .dex => Sys2Proof.Machine.execDex s
  | .sbxImm b1 => Sys2Proof.Machine.execSbxImm b1 s
  | .cpyAbs w => Sys2Proof.Machine.execCpyAbs w s
  | .cmpAbs w => Sys2Proof.Machine.execCmpAbs w s
  | .decAbs w => Sys2Proof.Machine.execDecAbs w s
  | .dcpAbs w => Sys2Proof.Machine.execDcpAbs w s
  | .bneRel off => Sys2Proof.Machine.execBneRel off s
  | .cmpIndy b1 => Sys2Proof.Machine.execCmpIndy b1 s
  | .jamD2 => Sys2Proof.Machine.execJamD2 s
  | .dcpIndy b1 => Sys2Proof.Machine.execDcpIndy b1 s
  | .nopZpxD4 b1 => Sys2Proof.Machine.execNopZpxD4 b1 s
  | .cmpZpx b1 => Sys2Proof.Machine.execCmpZpx b1 s
  | .decZpx b1 => Sys2Proof.Machine.execDecZpx b1 s
  | .dcpZpx b1 => Sys2Proof.Machine.execDcpZpx b1 s
  | .cld => Sys2Proof.Machine.execCld s
  | .cmpAbsy w => Sys2Proof.Machine.execCmpAbsy w s
  | .nopDA => Sys2Proof.Machine.execNopDA s
  | .dcpAbsy w => Sys2Proof.Machine.execDcpAbsy w s
  | .nopAbsxDC w => Sys2Proof.Machine.execNopAbsxDC w s
  | .cmpAbsx w => Sys2Proof.Machine.execCmpAbsx w s
  | .decAbsx w => Sys2Proof.Machine.execDecAbsx w s
  | .dcpAbsx w => Sys2Proof.Machine.execDcpAbsx w s
  | .cpxImm b1 => Sys2Proof.Machine.execCpxImm b1 s
  | .sbcIndx b1 => Sys2Proof.Machine.execSbcIndx b1 s
  | .nopImmE2 b1 => Sys2Proof.Machine.execNopImmE2 b1 s
  | .iscIndx b1 => Sys2Proof.Machine.execIscIndx b1 s
  | .cpxZp b1 => Sys2Proof.Machine.execCpxZp b1 s
  | .sbcZp b1 => Sys2Proof.Machine.execSbcZp b1 s
  | .incZp b1 => Sys2Proof.Machine.execIncZp b1 s
  | .iscZp b1 => Sys2Proof.Machine.execIscZp b1 s
  | .inx => Sys2Proof.Machine.execInx s
  | .sbcImm b1 => Sys2Proof.Machine.execSbcImm b1 s
  | .nop => Sys2Proof.Machine.execNop s
  | .usbcImm b1 => Sys2Proof.Machine.execUsbcImm b1 s
  | .cpxAbs w => Sys2Proof.Machine.execCpxAbs w s
  | .sbcAbs w => Sys2Proof.Machine.execSbcAbs w s
  | .incAbs w => Sys2Proof.Machine.execIncAbs w s
  | .iscAbs w => Sys2Proof.Machine.execIscAbs w s
  | .beqRel off => Sys2Proof.Machine.execBeqRel off s
  | .sbcIndy b1 => Sys2Proof.Machine.execSbcIndy b1 s
  | .jamF2 => Sys2Proof.Machine.execJamF2 s
  | .iscIndy b1 => Sys2Proof.Machine.execIscIndy b1 s
  | .nopZpxF4 b1 => Sys2Proof.Machine.execNopZpxF4 b1 s
  | .sbcZpx b1 => Sys2Proof.Machine.execSbcZpx b1 s
  | .incZpx b1 => Sys2Proof.Machine.execIncZpx b1 s
  | .iscZpx b1 => Sys2Proof.Machine.execIscZpx b1 s
  | .sed => Sys2Proof.Machine.execSed s
  | .sbcAbsy w => Sys2Proof.Machine.execSbcAbsy w s
  | .nopFA => Sys2Proof.Machine.execNopFA s
  | .iscAbsy w => Sys2Proof.Machine.execIscAbsy w s
  | .nopAbsxFC w => Sys2Proof.Machine.execNopAbsxFC w s
  | .sbcAbsx w => Sys2Proof.Machine.execSbcAbsx w s
  | .incAbsx w => Sys2Proof.Machine.execIncAbsx w s
  | .iscAbsx w => Sys2Proof.Machine.execIscAbsx w s

end Sys2Proof.Machine
end

