-- ==== Sys2Proof/WellFormed.lean ====
section
/-! DEFINITION. Which addressing modes each mnemonic has, transcribed from the Encoding lines of files
41 to 45 (and not from the opcode map), and the check that an instruction is one of those forms. The
operands of an instruction have exactly the widths of its encoding (R251), so nothing else can be
ill-formed. -/

namespace Sys2Proof

/-- The addressing modes of each mnemonic (R401 to R660). -/
def Mnemonic.modes : Mnemonic → List Mode
  | .lda | .adc | .sbc | .and | .ora | .eor | .cmp => [.imm, .zp, .zpx, .abs, .absx, .absy, .indx, .indy]
  | .ldx => [.imm, .zp, .zpy, .abs, .absy]
  | .ldy => [.imm, .zp, .zpx, .abs, .absx]
  | .sta | .slo | .rla | .sre | .rra | .dcp | .isc => [.zp, .zpx, .abs, .absx, .absy, .indx, .indy]
  | .stx => [.zp, .zpy, .abs]
  | .sty => [.zp, .zpx, .abs]
  | .tax | .tay | .txa | .tya | .tsx | .txs | .inx | .iny | .dex | .dey | .rts | .rti
  | .brk | .pha | .php | .pla | .plp | .clc | .sec | .cli | .sei | .cld | .sed | .clv
  | .jam => [.imp]
  | .bit => [.zp, .abs]
  | .cpx | .cpy => [.imm, .zp, .abs]
  | .inc | .dec => [.zp, .zpx, .abs, .absx]
  | .asl | .lsr | .rol | .ror => [.acc, .zp, .zpx, .abs, .absx]
  | .bpl | .bmi | .bvc | .bvs | .bcc | .bcs | .bne | .beq => [.rel]
  | .jmp => [.abs, .ind]
  | .jsr => [.abs]
  | .nop => [.imp, .imm, .zp, .zpx, .abs, .absx]
  | .sax => [.zp, .zpy, .abs, .indx]
  | .lax => [.zp, .zpy, .abs, .absy, .indx, .indy]
  | .las | .shx | .tas => [.absy]
  | .anc | .alr | .arr | .sbx | .usbc | .ane | .lxa => [.imm]
  | .sha => [.absy, .indy]
  | .shy => [.absx]

/-- A form, that is a mnemonic with a mode, is well-formed when the mnemonic has that mode. -/
def formWellFormed (n : Mnemonic) (m : Mode) : Bool := decide (m ∈ n.modes)

/-- An instruction is well-formed when its form is. -/
def Instr.wellFormed (i : Instr) : Bool := formWellFormed i.mnemonic i.mode

end Sys2Proof
end

