-- ==== Sys2Proof/Decode.lean ====
section
/-! DEFINITION. The decoder and the encoder (30_encoding.md). The opcode byte alone selects the row of
the opcode map, and the row's mode fixes the length (R250, R268); every opcode byte has a row (R265),
so the decoder refuses only a byte sequence that ends before the instruction does. -/

namespace Sys2Proof

/-- The bus class of an opcode (R310, `cls` in spec/opcode_table.json). -/
inductive AccessClass where
  | implied | read | write | rmw | branch | special
deriving DecidableEq, Repr

/-- One row of the opcode map (R263): mnemonic, mode, base cycles, whether a page crossing adds a cycle
(R345), class, whether the opcode is documented, and the instruction its operand bytes make. -/
structure Row where
  mnemonic : Mnemonic
  mode : Mode
  cycles : Nat
  pagePenalty : Bool
  cls : AccessClass
  documented : Bool
  build : Byte → Byte → Instr

/-- Opcodes 0x00 to 0x0F (R263). -/
def opcodeRow0 : List Row := [
  ⟨.brk, .imp, 7, false, .special, true, fun _ _ => .brk⟩,
  ⟨.ora, .indx, 6, false, .read, true, fun b1 _ => .oraIndx b1⟩,
  ⟨.jam, .imp, 2, false, .special, false, fun _ _ => .jam02⟩,
  ⟨.slo, .indx, 8, false, .rmw, false, fun b1 _ => .sloIndx b1⟩,
  ⟨.nop, .zp, 3, false, .read, false, fun b1 _ => .nopZp04 b1⟩,
  ⟨.ora, .zp, 3, false, .read, true, fun b1 _ => .oraZp b1⟩,
  ⟨.asl, .zp, 5, false, .rmw, true, fun b1 _ => .aslZp b1⟩,
  ⟨.slo, .zp, 5, false, .rmw, false, fun b1 _ => .sloZp b1⟩,
  ⟨.php, .imp, 3, false, .special, true, fun _ _ => .php⟩,
  ⟨.ora, .imm, 2, false, .read, true, fun b1 _ => .oraImm b1⟩,
  ⟨.asl, .acc, 2, false, .implied, true, fun _ _ => .aslAcc⟩,
  ⟨.anc, .imm, 2, false, .read, false, fun b1 _ => .ancImm0B b1⟩,
  ⟨.nop, .abs, 4, false, .read, false, fun b1 b2 => .nopAbs (Machine.mkWord b2 b1)⟩,
  ⟨.ora, .abs, 4, false, .read, true, fun b1 b2 => .oraAbs (Machine.mkWord b2 b1)⟩,
  ⟨.asl, .abs, 6, false, .rmw, true, fun b1 b2 => .aslAbs (Machine.mkWord b2 b1)⟩,
  ⟨.slo, .abs, 6, false, .rmw, false, fun b1 b2 => .sloAbs (Machine.mkWord b2 b1)⟩]

/-- Opcodes 0x10 to 0x1F (R263). -/
def opcodeRow1 : List Row := [
  ⟨.bpl, .rel, 2, false, .branch, true, fun b1 _ => .bplRel b1⟩,
  ⟨.ora, .indy, 5, true, .read, true, fun b1 _ => .oraIndy b1⟩,
  ⟨.jam, .imp, 2, false, .special, false, fun _ _ => .jam12⟩,
  ⟨.slo, .indy, 8, false, .rmw, false, fun b1 _ => .sloIndy b1⟩,
  ⟨.nop, .zpx, 4, false, .read, false, fun b1 _ => .nopZpx14 b1⟩,
  ⟨.ora, .zpx, 4, false, .read, true, fun b1 _ => .oraZpx b1⟩,
  ⟨.asl, .zpx, 6, false, .rmw, true, fun b1 _ => .aslZpx b1⟩,
  ⟨.slo, .zpx, 6, false, .rmw, false, fun b1 _ => .sloZpx b1⟩,
  ⟨.clc, .imp, 2, false, .implied, true, fun _ _ => .clc⟩,
  ⟨.ora, .absy, 4, true, .read, true, fun b1 b2 => .oraAbsy (Machine.mkWord b2 b1)⟩,
  ⟨.nop, .imp, 2, false, .implied, false, fun _ _ => .nop1A⟩,
  ⟨.slo, .absy, 7, false, .rmw, false, fun b1 b2 => .sloAbsy (Machine.mkWord b2 b1)⟩,
  ⟨.nop, .absx, 4, true, .read, false, fun b1 b2 => .nopAbsx1C (Machine.mkWord b2 b1)⟩,
  ⟨.ora, .absx, 4, true, .read, true, fun b1 b2 => .oraAbsx (Machine.mkWord b2 b1)⟩,
  ⟨.asl, .absx, 7, false, .rmw, true, fun b1 b2 => .aslAbsx (Machine.mkWord b2 b1)⟩,
  ⟨.slo, .absx, 7, false, .rmw, false, fun b1 b2 => .sloAbsx (Machine.mkWord b2 b1)⟩]

/-- Opcodes 0x20 to 0x2F (R263). -/
def opcodeRow2 : List Row := [
  ⟨.jsr, .abs, 6, false, .special, true, fun b1 b2 => .jsrAbs (Machine.mkWord b2 b1)⟩,
  ⟨.and, .indx, 6, false, .read, true, fun b1 _ => .andIndx b1⟩,
  ⟨.jam, .imp, 2, false, .special, false, fun _ _ => .jam22⟩,
  ⟨.rla, .indx, 8, false, .rmw, false, fun b1 _ => .rlaIndx b1⟩,
  ⟨.bit, .zp, 3, false, .read, true, fun b1 _ => .bitZp b1⟩,
  ⟨.and, .zp, 3, false, .read, true, fun b1 _ => .andZp b1⟩,
  ⟨.rol, .zp, 5, false, .rmw, true, fun b1 _ => .rolZp b1⟩,
  ⟨.rla, .zp, 5, false, .rmw, false, fun b1 _ => .rlaZp b1⟩,
  ⟨.plp, .imp, 4, false, .special, true, fun _ _ => .plp⟩,
  ⟨.and, .imm, 2, false, .read, true, fun b1 _ => .andImm b1⟩,
  ⟨.rol, .acc, 2, false, .implied, true, fun _ _ => .rolAcc⟩,
  ⟨.anc, .imm, 2, false, .read, false, fun b1 _ => .ancImm2B b1⟩,
  ⟨.bit, .abs, 4, false, .read, true, fun b1 b2 => .bitAbs (Machine.mkWord b2 b1)⟩,
  ⟨.and, .abs, 4, false, .read, true, fun b1 b2 => .andAbs (Machine.mkWord b2 b1)⟩,
  ⟨.rol, .abs, 6, false, .rmw, true, fun b1 b2 => .rolAbs (Machine.mkWord b2 b1)⟩,
  ⟨.rla, .abs, 6, false, .rmw, false, fun b1 b2 => .rlaAbs (Machine.mkWord b2 b1)⟩]

/-- Opcodes 0x30 to 0x3F (R263). -/
def opcodeRow3 : List Row := [
  ⟨.bmi, .rel, 2, false, .branch, true, fun b1 _ => .bmiRel b1⟩,
  ⟨.and, .indy, 5, true, .read, true, fun b1 _ => .andIndy b1⟩,
  ⟨.jam, .imp, 2, false, .special, false, fun _ _ => .jam32⟩,
  ⟨.rla, .indy, 8, false, .rmw, false, fun b1 _ => .rlaIndy b1⟩,
  ⟨.nop, .zpx, 4, false, .read, false, fun b1 _ => .nopZpx34 b1⟩,
  ⟨.and, .zpx, 4, false, .read, true, fun b1 _ => .andZpx b1⟩,
  ⟨.rol, .zpx, 6, false, .rmw, true, fun b1 _ => .rolZpx b1⟩,
  ⟨.rla, .zpx, 6, false, .rmw, false, fun b1 _ => .rlaZpx b1⟩,
  ⟨.sec, .imp, 2, false, .implied, true, fun _ _ => .sec⟩,
  ⟨.and, .absy, 4, true, .read, true, fun b1 b2 => .andAbsy (Machine.mkWord b2 b1)⟩,
  ⟨.nop, .imp, 2, false, .implied, false, fun _ _ => .nop3A⟩,
  ⟨.rla, .absy, 7, false, .rmw, false, fun b1 b2 => .rlaAbsy (Machine.mkWord b2 b1)⟩,
  ⟨.nop, .absx, 4, true, .read, false, fun b1 b2 => .nopAbsx3C (Machine.mkWord b2 b1)⟩,
  ⟨.and, .absx, 4, true, .read, true, fun b1 b2 => .andAbsx (Machine.mkWord b2 b1)⟩,
  ⟨.rol, .absx, 7, false, .rmw, true, fun b1 b2 => .rolAbsx (Machine.mkWord b2 b1)⟩,
  ⟨.rla, .absx, 7, false, .rmw, false, fun b1 b2 => .rlaAbsx (Machine.mkWord b2 b1)⟩]

/-- Opcodes 0x40 to 0x4F (R263). -/
def opcodeRow4 : List Row := [
  ⟨.rti, .imp, 6, false, .special, true, fun _ _ => .rti⟩,
  ⟨.eor, .indx, 6, false, .read, true, fun b1 _ => .eorIndx b1⟩,
  ⟨.jam, .imp, 2, false, .special, false, fun _ _ => .jam42⟩,
  ⟨.sre, .indx, 8, false, .rmw, false, fun b1 _ => .sreIndx b1⟩,
  ⟨.nop, .zp, 3, false, .read, false, fun b1 _ => .nopZp44 b1⟩,
  ⟨.eor, .zp, 3, false, .read, true, fun b1 _ => .eorZp b1⟩,
  ⟨.lsr, .zp, 5, false, .rmw, true, fun b1 _ => .lsrZp b1⟩,
  ⟨.sre, .zp, 5, false, .rmw, false, fun b1 _ => .sreZp b1⟩,
  ⟨.pha, .imp, 3, false, .special, true, fun _ _ => .pha⟩,
  ⟨.eor, .imm, 2, false, .read, true, fun b1 _ => .eorImm b1⟩,
  ⟨.lsr, .acc, 2, false, .implied, true, fun _ _ => .lsrAcc⟩,
  ⟨.alr, .imm, 2, false, .read, false, fun b1 _ => .alrImm b1⟩,
  ⟨.jmp, .abs, 3, false, .special, true, fun b1 b2 => .jmpAbs (Machine.mkWord b2 b1)⟩,
  ⟨.eor, .abs, 4, false, .read, true, fun b1 b2 => .eorAbs (Machine.mkWord b2 b1)⟩,
  ⟨.lsr, .abs, 6, false, .rmw, true, fun b1 b2 => .lsrAbs (Machine.mkWord b2 b1)⟩,
  ⟨.sre, .abs, 6, false, .rmw, false, fun b1 b2 => .sreAbs (Machine.mkWord b2 b1)⟩]

/-- Opcodes 0x50 to 0x5F (R263). -/
def opcodeRow5 : List Row := [
  ⟨.bvc, .rel, 2, false, .branch, true, fun b1 _ => .bvcRel b1⟩,
  ⟨.eor, .indy, 5, true, .read, true, fun b1 _ => .eorIndy b1⟩,
  ⟨.jam, .imp, 2, false, .special, false, fun _ _ => .jam52⟩,
  ⟨.sre, .indy, 8, false, .rmw, false, fun b1 _ => .sreIndy b1⟩,
  ⟨.nop, .zpx, 4, false, .read, false, fun b1 _ => .nopZpx54 b1⟩,
  ⟨.eor, .zpx, 4, false, .read, true, fun b1 _ => .eorZpx b1⟩,
  ⟨.lsr, .zpx, 6, false, .rmw, true, fun b1 _ => .lsrZpx b1⟩,
  ⟨.sre, .zpx, 6, false, .rmw, false, fun b1 _ => .sreZpx b1⟩,
  ⟨.cli, .imp, 2, false, .implied, true, fun _ _ => .cli⟩,
  ⟨.eor, .absy, 4, true, .read, true, fun b1 b2 => .eorAbsy (Machine.mkWord b2 b1)⟩,
  ⟨.nop, .imp, 2, false, .implied, false, fun _ _ => .nop5A⟩,
  ⟨.sre, .absy, 7, false, .rmw, false, fun b1 b2 => .sreAbsy (Machine.mkWord b2 b1)⟩,
  ⟨.nop, .absx, 4, true, .read, false, fun b1 b2 => .nopAbsx5C (Machine.mkWord b2 b1)⟩,
  ⟨.eor, .absx, 4, true, .read, true, fun b1 b2 => .eorAbsx (Machine.mkWord b2 b1)⟩,
  ⟨.lsr, .absx, 7, false, .rmw, true, fun b1 b2 => .lsrAbsx (Machine.mkWord b2 b1)⟩,
  ⟨.sre, .absx, 7, false, .rmw, false, fun b1 b2 => .sreAbsx (Machine.mkWord b2 b1)⟩]

/-- Opcodes 0x60 to 0x6F (R263). -/
def opcodeRow6 : List Row := [
  ⟨.rts, .imp, 6, false, .special, true, fun _ _ => .rts⟩,
  ⟨.adc, .indx, 6, false, .read, true, fun b1 _ => .adcIndx b1⟩,
  ⟨.jam, .imp, 2, false, .special, false, fun _ _ => .jam62⟩,
  ⟨.rra, .indx, 8, false, .rmw, false, fun b1 _ => .rraIndx b1⟩,
  ⟨.nop, .zp, 3, false, .read, false, fun b1 _ => .nopZp64 b1⟩,
  ⟨.adc, .zp, 3, false, .read, true, fun b1 _ => .adcZp b1⟩,
  ⟨.ror, .zp, 5, false, .rmw, true, fun b1 _ => .rorZp b1⟩,
  ⟨.rra, .zp, 5, false, .rmw, false, fun b1 _ => .rraZp b1⟩,
  ⟨.pla, .imp, 4, false, .special, true, fun _ _ => .pla⟩,
  ⟨.adc, .imm, 2, false, .read, true, fun b1 _ => .adcImm b1⟩,
  ⟨.ror, .acc, 2, false, .implied, true, fun _ _ => .rorAcc⟩,
  ⟨.arr, .imm, 2, false, .read, false, fun b1 _ => .arrImm b1⟩,
  ⟨.jmp, .ind, 5, false, .special, true, fun b1 b2 => .jmpInd (Machine.mkWord b2 b1)⟩,
  ⟨.adc, .abs, 4, false, .read, true, fun b1 b2 => .adcAbs (Machine.mkWord b2 b1)⟩,
  ⟨.ror, .abs, 6, false, .rmw, true, fun b1 b2 => .rorAbs (Machine.mkWord b2 b1)⟩,
  ⟨.rra, .abs, 6, false, .rmw, false, fun b1 b2 => .rraAbs (Machine.mkWord b2 b1)⟩]

/-- Opcodes 0x70 to 0x7F (R263). -/
def opcodeRow7 : List Row := [
  ⟨.bvs, .rel, 2, false, .branch, true, fun b1 _ => .bvsRel b1⟩,
  ⟨.adc, .indy, 5, true, .read, true, fun b1 _ => .adcIndy b1⟩,
  ⟨.jam, .imp, 2, false, .special, false, fun _ _ => .jam72⟩,
  ⟨.rra, .indy, 8, false, .rmw, false, fun b1 _ => .rraIndy b1⟩,
  ⟨.nop, .zpx, 4, false, .read, false, fun b1 _ => .nopZpx74 b1⟩,
  ⟨.adc, .zpx, 4, false, .read, true, fun b1 _ => .adcZpx b1⟩,
  ⟨.ror, .zpx, 6, false, .rmw, true, fun b1 _ => .rorZpx b1⟩,
  ⟨.rra, .zpx, 6, false, .rmw, false, fun b1 _ => .rraZpx b1⟩,
  ⟨.sei, .imp, 2, false, .implied, true, fun _ _ => .sei⟩,
  ⟨.adc, .absy, 4, true, .read, true, fun b1 b2 => .adcAbsy (Machine.mkWord b2 b1)⟩,
  ⟨.nop, .imp, 2, false, .implied, false, fun _ _ => .nop7A⟩,
  ⟨.rra, .absy, 7, false, .rmw, false, fun b1 b2 => .rraAbsy (Machine.mkWord b2 b1)⟩,
  ⟨.nop, .absx, 4, true, .read, false, fun b1 b2 => .nopAbsx7C (Machine.mkWord b2 b1)⟩,
  ⟨.adc, .absx, 4, true, .read, true, fun b1 b2 => .adcAbsx (Machine.mkWord b2 b1)⟩,
  ⟨.ror, .absx, 7, false, .rmw, true, fun b1 b2 => .rorAbsx (Machine.mkWord b2 b1)⟩,
  ⟨.rra, .absx, 7, false, .rmw, false, fun b1 b2 => .rraAbsx (Machine.mkWord b2 b1)⟩]

/-- Opcodes 0x80 to 0x8F (R263). -/
def opcodeRow8 : List Row := [
  ⟨.nop, .imm, 2, false, .read, false, fun b1 _ => .nopImm80 b1⟩,
  ⟨.sta, .indx, 6, false, .write, true, fun b1 _ => .staIndx b1⟩,
  ⟨.nop, .imm, 2, false, .read, false, fun b1 _ => .nopImm82 b1⟩,
  ⟨.sax, .indx, 6, false, .write, false, fun b1 _ => .saxIndx b1⟩,
  ⟨.sty, .zp, 3, false, .write, true, fun b1 _ => .styZp b1⟩,
  ⟨.sta, .zp, 3, false, .write, true, fun b1 _ => .staZp b1⟩,
  ⟨.stx, .zp, 3, false, .write, true, fun b1 _ => .stxZp b1⟩,
  ⟨.sax, .zp, 3, false, .write, false, fun b1 _ => .saxZp b1⟩,
  ⟨.dey, .imp, 2, false, .implied, true, fun _ _ => .dey⟩,
  ⟨.nop, .imm, 2, false, .read, false, fun b1 _ => .nopImm89 b1⟩,
  ⟨.txa, .imp, 2, false, .implied, true, fun _ _ => .txa⟩,
  ⟨.ane, .imm, 2, false, .read, false, fun b1 _ => .aneImm b1⟩,
  ⟨.sty, .abs, 4, false, .write, true, fun b1 b2 => .styAbs (Machine.mkWord b2 b1)⟩,
  ⟨.sta, .abs, 4, false, .write, true, fun b1 b2 => .staAbs (Machine.mkWord b2 b1)⟩,
  ⟨.stx, .abs, 4, false, .write, true, fun b1 b2 => .stxAbs (Machine.mkWord b2 b1)⟩,
  ⟨.sax, .abs, 4, false, .write, false, fun b1 b2 => .saxAbs (Machine.mkWord b2 b1)⟩]

/-- Opcodes 0x90 to 0x9F (R263). -/
def opcodeRow9 : List Row := [
  ⟨.bcc, .rel, 2, false, .branch, true, fun b1 _ => .bccRel b1⟩,
  ⟨.sta, .indy, 6, false, .write, true, fun b1 _ => .staIndy b1⟩,
  ⟨.jam, .imp, 2, false, .special, false, fun _ _ => .jam92⟩,
  ⟨.sha, .indy, 6, false, .write, false, fun b1 _ => .shaIndy b1⟩,
  ⟨.sty, .zpx, 4, false, .write, true, fun b1 _ => .styZpx b1⟩,
  ⟨.sta, .zpx, 4, false, .write, true, fun b1 _ => .staZpx b1⟩,
  ⟨.stx, .zpy, 4, false, .write, true, fun b1 _ => .stxZpy b1⟩,
  ⟨.sax, .zpy, 4, false, .write, false, fun b1 _ => .saxZpy b1⟩,
  ⟨.tya, .imp, 2, false, .implied, true, fun _ _ => .tya⟩,
  ⟨.sta, .absy, 5, false, .write, true, fun b1 b2 => .staAbsy (Machine.mkWord b2 b1)⟩,
  ⟨.txs, .imp, 2, false, .implied, true, fun _ _ => .txs⟩,
  ⟨.tas, .absy, 5, false, .write, false, fun b1 b2 => .tasAbsy (Machine.mkWord b2 b1)⟩,
  ⟨.shy, .absx, 5, false, .write, false, fun b1 b2 => .shyAbsx (Machine.mkWord b2 b1)⟩,
  ⟨.sta, .absx, 5, false, .write, true, fun b1 b2 => .staAbsx (Machine.mkWord b2 b1)⟩,
  ⟨.shx, .absy, 5, false, .write, false, fun b1 b2 => .shxAbsy (Machine.mkWord b2 b1)⟩,
  ⟨.sha, .absy, 5, false, .write, false, fun b1 b2 => .shaAbsy (Machine.mkWord b2 b1)⟩]

/-- Opcodes 0xA0 to 0xAF (R263). -/
def opcodeRowA : List Row := [
  ⟨.ldy, .imm, 2, false, .read, true, fun b1 _ => .ldyImm b1⟩,
  ⟨.lda, .indx, 6, false, .read, true, fun b1 _ => .ldaIndx b1⟩,
  ⟨.ldx, .imm, 2, false, .read, true, fun b1 _ => .ldxImm b1⟩,
  ⟨.lax, .indx, 6, false, .read, false, fun b1 _ => .laxIndx b1⟩,
  ⟨.ldy, .zp, 3, false, .read, true, fun b1 _ => .ldyZp b1⟩,
  ⟨.lda, .zp, 3, false, .read, true, fun b1 _ => .ldaZp b1⟩,
  ⟨.ldx, .zp, 3, false, .read, true, fun b1 _ => .ldxZp b1⟩,
  ⟨.lax, .zp, 3, false, .read, false, fun b1 _ => .laxZp b1⟩,
  ⟨.tay, .imp, 2, false, .implied, true, fun _ _ => .tay⟩,
  ⟨.lda, .imm, 2, false, .read, true, fun b1 _ => .ldaImm b1⟩,
  ⟨.tax, .imp, 2, false, .implied, true, fun _ _ => .tax⟩,
  ⟨.lxa, .imm, 2, false, .read, false, fun b1 _ => .lxaImm b1⟩,
  ⟨.ldy, .abs, 4, false, .read, true, fun b1 b2 => .ldyAbs (Machine.mkWord b2 b1)⟩,
  ⟨.lda, .abs, 4, false, .read, true, fun b1 b2 => .ldaAbs (Machine.mkWord b2 b1)⟩,
  ⟨.ldx, .abs, 4, false, .read, true, fun b1 b2 => .ldxAbs (Machine.mkWord b2 b1)⟩,
  ⟨.lax, .abs, 4, false, .read, false, fun b1 b2 => .laxAbs (Machine.mkWord b2 b1)⟩]

/-- Opcodes 0xB0 to 0xBF (R263). -/
def opcodeRowB : List Row := [
  ⟨.bcs, .rel, 2, false, .branch, true, fun b1 _ => .bcsRel b1⟩,
  ⟨.lda, .indy, 5, true, .read, true, fun b1 _ => .ldaIndy b1⟩,
  ⟨.jam, .imp, 2, false, .special, false, fun _ _ => .jamB2⟩,
  ⟨.lax, .indy, 5, true, .read, false, fun b1 _ => .laxIndy b1⟩,
  ⟨.ldy, .zpx, 4, false, .read, true, fun b1 _ => .ldyZpx b1⟩,
  ⟨.lda, .zpx, 4, false, .read, true, fun b1 _ => .ldaZpx b1⟩,
  ⟨.ldx, .zpy, 4, false, .read, true, fun b1 _ => .ldxZpy b1⟩,
  ⟨.lax, .zpy, 4, false, .read, false, fun b1 _ => .laxZpy b1⟩,
  ⟨.clv, .imp, 2, false, .implied, true, fun _ _ => .clv⟩,
  ⟨.lda, .absy, 4, true, .read, true, fun b1 b2 => .ldaAbsy (Machine.mkWord b2 b1)⟩,
  ⟨.tsx, .imp, 2, false, .implied, true, fun _ _ => .tsx⟩,
  ⟨.las, .absy, 4, true, .read, false, fun b1 b2 => .lasAbsy (Machine.mkWord b2 b1)⟩,
  ⟨.ldy, .absx, 4, true, .read, true, fun b1 b2 => .ldyAbsx (Machine.mkWord b2 b1)⟩,
  ⟨.lda, .absx, 4, true, .read, true, fun b1 b2 => .ldaAbsx (Machine.mkWord b2 b1)⟩,
  ⟨.ldx, .absy, 4, true, .read, true, fun b1 b2 => .ldxAbsy (Machine.mkWord b2 b1)⟩,
  ⟨.lax, .absy, 4, true, .read, false, fun b1 b2 => .laxAbsy (Machine.mkWord b2 b1)⟩]

/-- Opcodes 0xC0 to 0xCF (R263). -/
def opcodeRowC : List Row := [
  ⟨.cpy, .imm, 2, false, .read, true, fun b1 _ => .cpyImm b1⟩,
  ⟨.cmp, .indx, 6, false, .read, true, fun b1 _ => .cmpIndx b1⟩,
  ⟨.nop, .imm, 2, false, .read, false, fun b1 _ => .nopImmC2 b1⟩,
  ⟨.dcp, .indx, 8, false, .rmw, false, fun b1 _ => .dcpIndx b1⟩,
  ⟨.cpy, .zp, 3, false, .read, true, fun b1 _ => .cpyZp b1⟩,
  ⟨.cmp, .zp, 3, false, .read, true, fun b1 _ => .cmpZp b1⟩,
  ⟨.dec, .zp, 5, false, .rmw, true, fun b1 _ => .decZp b1⟩,
  ⟨.dcp, .zp, 5, false, .rmw, false, fun b1 _ => .dcpZp b1⟩,
  ⟨.iny, .imp, 2, false, .implied, true, fun _ _ => .iny⟩,
  ⟨.cmp, .imm, 2, false, .read, true, fun b1 _ => .cmpImm b1⟩,
  ⟨.dex, .imp, 2, false, .implied, true, fun _ _ => .dex⟩,
  ⟨.sbx, .imm, 2, false, .read, false, fun b1 _ => .sbxImm b1⟩,
  ⟨.cpy, .abs, 4, false, .read, true, fun b1 b2 => .cpyAbs (Machine.mkWord b2 b1)⟩,
  ⟨.cmp, .abs, 4, false, .read, true, fun b1 b2 => .cmpAbs (Machine.mkWord b2 b1)⟩,
  ⟨.dec, .abs, 6, false, .rmw, true, fun b1 b2 => .decAbs (Machine.mkWord b2 b1)⟩,
  ⟨.dcp, .abs, 6, false, .rmw, false, fun b1 b2 => .dcpAbs (Machine.mkWord b2 b1)⟩]

/-- Opcodes 0xD0 to 0xDF (R263). -/
def opcodeRowD : List Row := [
  ⟨.bne, .rel, 2, false, .branch, true, fun b1 _ => .bneRel b1⟩,
  ⟨.cmp, .indy, 5, true, .read, true, fun b1 _ => .cmpIndy b1⟩,
  ⟨.jam, .imp, 2, false, .special, false, fun _ _ => .jamD2⟩,
  ⟨.dcp, .indy, 8, false, .rmw, false, fun b1 _ => .dcpIndy b1⟩,
  ⟨.nop, .zpx, 4, false, .read, false, fun b1 _ => .nopZpxD4 b1⟩,
  ⟨.cmp, .zpx, 4, false, .read, true, fun b1 _ => .cmpZpx b1⟩,
  ⟨.dec, .zpx, 6, false, .rmw, true, fun b1 _ => .decZpx b1⟩,
  ⟨.dcp, .zpx, 6, false, .rmw, false, fun b1 _ => .dcpZpx b1⟩,
  ⟨.cld, .imp, 2, false, .implied, true, fun _ _ => .cld⟩,
  ⟨.cmp, .absy, 4, true, .read, true, fun b1 b2 => .cmpAbsy (Machine.mkWord b2 b1)⟩,
  ⟨.nop, .imp, 2, false, .implied, false, fun _ _ => .nopDA⟩,
  ⟨.dcp, .absy, 7, false, .rmw, false, fun b1 b2 => .dcpAbsy (Machine.mkWord b2 b1)⟩,
  ⟨.nop, .absx, 4, true, .read, false, fun b1 b2 => .nopAbsxDC (Machine.mkWord b2 b1)⟩,
  ⟨.cmp, .absx, 4, true, .read, true, fun b1 b2 => .cmpAbsx (Machine.mkWord b2 b1)⟩,
  ⟨.dec, .absx, 7, false, .rmw, true, fun b1 b2 => .decAbsx (Machine.mkWord b2 b1)⟩,
  ⟨.dcp, .absx, 7, false, .rmw, false, fun b1 b2 => .dcpAbsx (Machine.mkWord b2 b1)⟩]

/-- Opcodes 0xE0 to 0xEF (R263). -/
def opcodeRowE : List Row := [
  ⟨.cpx, .imm, 2, false, .read, true, fun b1 _ => .cpxImm b1⟩,
  ⟨.sbc, .indx, 6, false, .read, true, fun b1 _ => .sbcIndx b1⟩,
  ⟨.nop, .imm, 2, false, .read, false, fun b1 _ => .nopImmE2 b1⟩,
  ⟨.isc, .indx, 8, false, .rmw, false, fun b1 _ => .iscIndx b1⟩,
  ⟨.cpx, .zp, 3, false, .read, true, fun b1 _ => .cpxZp b1⟩,
  ⟨.sbc, .zp, 3, false, .read, true, fun b1 _ => .sbcZp b1⟩,
  ⟨.inc, .zp, 5, false, .rmw, true, fun b1 _ => .incZp b1⟩,
  ⟨.isc, .zp, 5, false, .rmw, false, fun b1 _ => .iscZp b1⟩,
  ⟨.inx, .imp, 2, false, .implied, true, fun _ _ => .inx⟩,
  ⟨.sbc, .imm, 2, false, .read, true, fun b1 _ => .sbcImm b1⟩,
  ⟨.nop, .imp, 2, false, .implied, true, fun _ _ => .nop⟩,
  ⟨.usbc, .imm, 2, false, .read, false, fun b1 _ => .usbcImm b1⟩,
  ⟨.cpx, .abs, 4, false, .read, true, fun b1 b2 => .cpxAbs (Machine.mkWord b2 b1)⟩,
  ⟨.sbc, .abs, 4, false, .read, true, fun b1 b2 => .sbcAbs (Machine.mkWord b2 b1)⟩,
  ⟨.inc, .abs, 6, false, .rmw, true, fun b1 b2 => .incAbs (Machine.mkWord b2 b1)⟩,
  ⟨.isc, .abs, 6, false, .rmw, false, fun b1 b2 => .iscAbs (Machine.mkWord b2 b1)⟩]

/-- Opcodes 0xF0 to 0xFF (R263). -/
def opcodeRowF : List Row := [
  ⟨.beq, .rel, 2, false, .branch, true, fun b1 _ => .beqRel b1⟩,
  ⟨.sbc, .indy, 5, true, .read, true, fun b1 _ => .sbcIndy b1⟩,
  ⟨.jam, .imp, 2, false, .special, false, fun _ _ => .jamF2⟩,
  ⟨.isc, .indy, 8, false, .rmw, false, fun b1 _ => .iscIndy b1⟩,
  ⟨.nop, .zpx, 4, false, .read, false, fun b1 _ => .nopZpxF4 b1⟩,
  ⟨.sbc, .zpx, 4, false, .read, true, fun b1 _ => .sbcZpx b1⟩,
  ⟨.inc, .zpx, 6, false, .rmw, true, fun b1 _ => .incZpx b1⟩,
  ⟨.isc, .zpx, 6, false, .rmw, false, fun b1 _ => .iscZpx b1⟩,
  ⟨.sed, .imp, 2, false, .implied, true, fun _ _ => .sed⟩,
  ⟨.sbc, .absy, 4, true, .read, true, fun b1 b2 => .sbcAbsy (Machine.mkWord b2 b1)⟩,
  ⟨.nop, .imp, 2, false, .implied, false, fun _ _ => .nopFA⟩,
  ⟨.isc, .absy, 7, false, .rmw, false, fun b1 b2 => .iscAbsy (Machine.mkWord b2 b1)⟩,
  ⟨.nop, .absx, 4, true, .read, false, fun b1 b2 => .nopAbsxFC (Machine.mkWord b2 b1)⟩,
  ⟨.sbc, .absx, 4, true, .read, true, fun b1 b2 => .sbcAbsx (Machine.mkWord b2 b1)⟩,
  ⟨.inc, .absx, 7, false, .rmw, true, fun b1 b2 => .incAbsx (Machine.mkWord b2 b1)⟩,
  ⟨.isc, .absx, 7, false, .rmw, false, fun b1 b2 => .iscAbsx (Machine.mkWord b2 b1)⟩]

/-- The complete opcode map: row `n` holds the opcode bytes whose high digit is `n` (R263). -/
def opcodeMap : List (List Row) := [
  opcodeRow0, opcodeRow1, opcodeRow2, opcodeRow3, opcodeRow4, opcodeRow5, opcodeRow6, opcodeRow7,
  opcodeRow8, opcodeRow9, opcodeRowA, opcodeRowB, opcodeRowC, opcodeRowD, opcodeRowE, opcodeRowF]

/-- The cell of an opcode byte: row its high digit, column its low digit (R263). Every byte has one, so the
last case never arises; it names BRK's only to be total. -/
def rowOf (op : Byte) : Row :=
  match (opcodeMap[op.toNat / 16]?).bind fun row => row[op.toNat % 16]? with
  | some r => r
  | none => ⟨.brk, .imp, 7, false, .special, true, fun _ _ => .brk⟩

/-- Why a byte sequence is no instruction: it ends too early. No opcode byte is refused (R265). -/
inductive DecodeError where
  /-- There is no opcode byte. -/
  | noOpcode
  /-- Operand bytes the opcode's mode needs are missing. -/
  | missingOperand (opcode : Byte)
deriving DecidableEq, Repr

/-- Reads one instruction from the front of a byte sequence, and gives the bytes after it. -/
def decode : List Byte → Except DecodeError (Instr × List Byte)
  | [] => .error .noOpcode
  | op :: rest =>
    let row := rowOf op
    match row.mode.length, rest with
    | 1, rest => .ok (row.build 0#8 0#8, rest)
    | 2, b1 :: rest => .ok (row.build b1 0#8, rest)
    | 3, b1 :: b2 :: rest => .ok (row.build b1 b2, rest)
    | _, _ => .error (.missingOperand op)

/-- The opcode byte of an instruction (R263). -/
def Instr.opcode : Instr → Byte
  | .brk => 0x00#8
  | .oraIndx _ => 0x01#8
  | .jam02 => 0x02#8
  | .sloIndx _ => 0x03#8
  | .nopZp04 _ => 0x04#8
  | .oraZp _ => 0x05#8
  | .aslZp _ => 0x06#8
  | .sloZp _ => 0x07#8
  | .php => 0x08#8
  | .oraImm _ => 0x09#8
  | .aslAcc => 0x0A#8
  | .ancImm0B _ => 0x0B#8
  | .nopAbs _ => 0x0C#8
  | .oraAbs _ => 0x0D#8
  | .aslAbs _ => 0x0E#8
  | .sloAbs _ => 0x0F#8
  | .bplRel _ => 0x10#8
  | .oraIndy _ => 0x11#8
  | .jam12 => 0x12#8
  | .sloIndy _ => 0x13#8
  | .nopZpx14 _ => 0x14#8
  | .oraZpx _ => 0x15#8
  | .aslZpx _ => 0x16#8
  | .sloZpx _ => 0x17#8
  | .clc => 0x18#8
  | .oraAbsy _ => 0x19#8
  | .nop1A => 0x1A#8
  | .sloAbsy _ => 0x1B#8
  | .nopAbsx1C _ => 0x1C#8
  | .oraAbsx _ => 0x1D#8
  | .aslAbsx _ => 0x1E#8
  | .sloAbsx _ => 0x1F#8
  | .jsrAbs _ => 0x20#8
  | .andIndx _ => 0x21#8
  | .jam22 => 0x22#8
  | .rlaIndx _ => 0x23#8
  | .bitZp _ => 0x24#8
  | .andZp _ => 0x25#8
  | .rolZp _ => 0x26#8
  | .rlaZp _ => 0x27#8
  | .plp => 0x28#8
  | .andImm _ => 0x29#8
  | .rolAcc => 0x2A#8
  | .ancImm2B _ => 0x2B#8
  | .bitAbs _ => 0x2C#8
  | .andAbs _ => 0x2D#8
  | .rolAbs _ => 0x2E#8
  | .rlaAbs _ => 0x2F#8
  | .bmiRel _ => 0x30#8
  | .andIndy _ => 0x31#8
  | .jam32 => 0x32#8
  | .rlaIndy _ => 0x33#8
  | .nopZpx34 _ => 0x34#8
  | .andZpx _ => 0x35#8
  | .rolZpx _ => 0x36#8
  | .rlaZpx _ => 0x37#8
  | .sec => 0x38#8
  | .andAbsy _ => 0x39#8
  | .nop3A => 0x3A#8
  | .rlaAbsy _ => 0x3B#8
  | .nopAbsx3C _ => 0x3C#8
  | .andAbsx _ => 0x3D#8
  | .rolAbsx _ => 0x3E#8
  | .rlaAbsx _ => 0x3F#8
  | .rti => 0x40#8
  | .eorIndx _ => 0x41#8
  | .jam42 => 0x42#8
  | .sreIndx _ => 0x43#8
  | .nopZp44 _ => 0x44#8
  | .eorZp _ => 0x45#8
  | .lsrZp _ => 0x46#8
  | .sreZp _ => 0x47#8
  | .pha => 0x48#8
  | .eorImm _ => 0x49#8
  | .lsrAcc => 0x4A#8
  | .alrImm _ => 0x4B#8
  | .jmpAbs _ => 0x4C#8
  | .eorAbs _ => 0x4D#8
  | .lsrAbs _ => 0x4E#8
  | .sreAbs _ => 0x4F#8
  | .bvcRel _ => 0x50#8
  | .eorIndy _ => 0x51#8
  | .jam52 => 0x52#8
  | .sreIndy _ => 0x53#8
  | .nopZpx54 _ => 0x54#8
  | .eorZpx _ => 0x55#8
  | .lsrZpx _ => 0x56#8
  | .sreZpx _ => 0x57#8
  | .cli => 0x58#8
  | .eorAbsy _ => 0x59#8
  | .nop5A => 0x5A#8
  | .sreAbsy _ => 0x5B#8
  | .nopAbsx5C _ => 0x5C#8
  | .eorAbsx _ => 0x5D#8
  | .lsrAbsx _ => 0x5E#8
  | .sreAbsx _ => 0x5F#8
  | .rts => 0x60#8
  | .adcIndx _ => 0x61#8
  | .jam62 => 0x62#8
  | .rraIndx _ => 0x63#8
  | .nopZp64 _ => 0x64#8
  | .adcZp _ => 0x65#8
  | .rorZp _ => 0x66#8
  | .rraZp _ => 0x67#8
  | .pla => 0x68#8
  | .adcImm _ => 0x69#8
  | .rorAcc => 0x6A#8
  | .arrImm _ => 0x6B#8
  | .jmpInd _ => 0x6C#8
  | .adcAbs _ => 0x6D#8
  | .rorAbs _ => 0x6E#8
  | .rraAbs _ => 0x6F#8
  | .bvsRel _ => 0x70#8
  | .adcIndy _ => 0x71#8
  | .jam72 => 0x72#8
  | .rraIndy _ => 0x73#8
  | .nopZpx74 _ => 0x74#8
  | .adcZpx _ => 0x75#8
  | .rorZpx _ => 0x76#8
  | .rraZpx _ => 0x77#8
  | .sei => 0x78#8
  | .adcAbsy _ => 0x79#8
  | .nop7A => 0x7A#8
  | .rraAbsy _ => 0x7B#8
  | .nopAbsx7C _ => 0x7C#8
  | .adcAbsx _ => 0x7D#8
  | .rorAbsx _ => 0x7E#8
  | .rraAbsx _ => 0x7F#8
  | .nopImm80 _ => 0x80#8
  | .staIndx _ => 0x81#8
  | .nopImm82 _ => 0x82#8
  | .saxIndx _ => 0x83#8
  | .styZp _ => 0x84#8
  | .staZp _ => 0x85#8
  | .stxZp _ => 0x86#8
  | .saxZp _ => 0x87#8
  | .dey => 0x88#8
  | .nopImm89 _ => 0x89#8
  | .txa => 0x8A#8
  | .aneImm _ => 0x8B#8
  | .styAbs _ => 0x8C#8
  | .staAbs _ => 0x8D#8
  | .stxAbs _ => 0x8E#8
  | .saxAbs _ => 0x8F#8
  | .bccRel _ => 0x90#8
  | .staIndy _ => 0x91#8
  | .jam92 => 0x92#8
  | .shaIndy _ => 0x93#8
  | .styZpx _ => 0x94#8
  | .staZpx _ => 0x95#8
  | .stxZpy _ => 0x96#8
  | .saxZpy _ => 0x97#8
  | .tya => 0x98#8
  | .staAbsy _ => 0x99#8
  | .txs => 0x9A#8
  | .tasAbsy _ => 0x9B#8
  | .shyAbsx _ => 0x9C#8
  | .staAbsx _ => 0x9D#8
  | .shxAbsy _ => 0x9E#8
  | .shaAbsy _ => 0x9F#8
  | .ldyImm _ => 0xA0#8
  | .ldaIndx _ => 0xA1#8
  | .ldxImm _ => 0xA2#8
  | .laxIndx _ => 0xA3#8
  | .ldyZp _ => 0xA4#8
  | .ldaZp _ => 0xA5#8
  | .ldxZp _ => 0xA6#8
  | .laxZp _ => 0xA7#8
  | .tay => 0xA8#8
  | .ldaImm _ => 0xA9#8
  | .tax => 0xAA#8
  | .lxaImm _ => 0xAB#8
  | .ldyAbs _ => 0xAC#8
  | .ldaAbs _ => 0xAD#8
  | .ldxAbs _ => 0xAE#8
  | .laxAbs _ => 0xAF#8
  | .bcsRel _ => 0xB0#8
  | .ldaIndy _ => 0xB1#8
  | .jamB2 => 0xB2#8
  | .laxIndy _ => 0xB3#8
  | .ldyZpx _ => 0xB4#8
  | .ldaZpx _ => 0xB5#8
  | .ldxZpy _ => 0xB6#8
  | .laxZpy _ => 0xB7#8
  | .clv => 0xB8#8
  | .ldaAbsy _ => 0xB9#8
  | .tsx => 0xBA#8
  | .lasAbsy _ => 0xBB#8
  | .ldyAbsx _ => 0xBC#8
  | .ldaAbsx _ => 0xBD#8
  | .ldxAbsy _ => 0xBE#8
  | .laxAbsy _ => 0xBF#8
  | .cpyImm _ => 0xC0#8
  | .cmpIndx _ => 0xC1#8
  | .nopImmC2 _ => 0xC2#8
  | .dcpIndx _ => 0xC3#8
  | .cpyZp _ => 0xC4#8
  | .cmpZp _ => 0xC5#8
  | .decZp _ => 0xC6#8
  | .dcpZp _ => 0xC7#8
  | .iny => 0xC8#8
  | .cmpImm _ => 0xC9#8
  | .dex => 0xCA#8
  | .sbxImm _ => 0xCB#8
  | .cpyAbs _ => 0xCC#8
  | .cmpAbs _ => 0xCD#8
  | .decAbs _ => 0xCE#8
  | .dcpAbs _ => 0xCF#8
  | .bneRel _ => 0xD0#8
  | .cmpIndy _ => 0xD1#8
  | .jamD2 => 0xD2#8
  | .dcpIndy _ => 0xD3#8
  | .nopZpxD4 _ => 0xD4#8
  | .cmpZpx _ => 0xD5#8
  | .decZpx _ => 0xD6#8
  | .dcpZpx _ => 0xD7#8
  | .cld => 0xD8#8
  | .cmpAbsy _ => 0xD9#8
  | .nopDA => 0xDA#8
  | .dcpAbsy _ => 0xDB#8
  | .nopAbsxDC _ => 0xDC#8
  | .cmpAbsx _ => 0xDD#8
  | .decAbsx _ => 0xDE#8
  | .dcpAbsx _ => 0xDF#8
  | .cpxImm _ => 0xE0#8
  | .sbcIndx _ => 0xE1#8
  | .nopImmE2 _ => 0xE2#8
  | .iscIndx _ => 0xE3#8
  | .cpxZp _ => 0xE4#8
  | .sbcZp _ => 0xE5#8
  | .incZp _ => 0xE6#8
  | .iscZp _ => 0xE7#8
  | .inx => 0xE8#8
  | .sbcImm _ => 0xE9#8
  | .nop => 0xEA#8
  | .usbcImm _ => 0xEB#8
  | .cpxAbs _ => 0xEC#8
  | .sbcAbs _ => 0xED#8
  | .incAbs _ => 0xEE#8
  | .iscAbs _ => 0xEF#8
  | .beqRel _ => 0xF0#8
  | .sbcIndy _ => 0xF1#8
  | .jamF2 => 0xF2#8
  | .iscIndy _ => 0xF3#8
  | .nopZpxF4 _ => 0xF4#8
  | .sbcZpx _ => 0xF5#8
  | .incZpx _ => 0xF6#8
  | .iscZpx _ => 0xF7#8
  | .sed => 0xF8#8
  | .sbcAbsy _ => 0xF9#8
  | .nopFA => 0xFA#8
  | .iscAbsy _ => 0xFB#8
  | .nopAbsxFC _ => 0xFC#8
  | .sbcAbsx _ => 0xFD#8
  | .incAbsx _ => 0xFE#8
  | .iscAbsx _ => 0xFF#8

/-- The operand bytes of an instruction, in the order they are fetched (R172, R251). -/
def Instr.operandBytes : Instr → List Byte
  | .brk => []
  | .oraIndx b1 => [b1]
  | .jam02 => []
  | .sloIndx b1 => [b1]
  | .nopZp04 b1 => [b1]
  | .oraZp b1 => [b1]
  | .aslZp b1 => [b1]
  | .sloZp b1 => [b1]
  | .php => []
  | .oraImm b1 => [b1]
  | .aslAcc => []
  | .ancImm0B b1 => [b1]
  | .nopAbs w => [Machine.loByte w, Machine.hiByte w]
  | .oraAbs w => [Machine.loByte w, Machine.hiByte w]
  | .aslAbs w => [Machine.loByte w, Machine.hiByte w]
  | .sloAbs w => [Machine.loByte w, Machine.hiByte w]
  | .bplRel off => [off]
  | .oraIndy b1 => [b1]
  | .jam12 => []
  | .sloIndy b1 => [b1]
  | .nopZpx14 b1 => [b1]
  | .oraZpx b1 => [b1]
  | .aslZpx b1 => [b1]
  | .sloZpx b1 => [b1]
  | .clc => []
  | .oraAbsy w => [Machine.loByte w, Machine.hiByte w]
  | .nop1A => []
  | .sloAbsy w => [Machine.loByte w, Machine.hiByte w]
  | .nopAbsx1C w => [Machine.loByte w, Machine.hiByte w]
  | .oraAbsx w => [Machine.loByte w, Machine.hiByte w]
  | .aslAbsx w => [Machine.loByte w, Machine.hiByte w]
  | .sloAbsx w => [Machine.loByte w, Machine.hiByte w]
  | .jsrAbs w => [Machine.loByte w, Machine.hiByte w]
  | .andIndx b1 => [b1]
  | .jam22 => []
  | .rlaIndx b1 => [b1]
  | .bitZp b1 => [b1]
  | .andZp b1 => [b1]
  | .rolZp b1 => [b1]
  | .rlaZp b1 => [b1]
  | .plp => []
  | .andImm b1 => [b1]
  | .rolAcc => []
  | .ancImm2B b1 => [b1]
  | .bitAbs w => [Machine.loByte w, Machine.hiByte w]
  | .andAbs w => [Machine.loByte w, Machine.hiByte w]
  | .rolAbs w => [Machine.loByte w, Machine.hiByte w]
  | .rlaAbs w => [Machine.loByte w, Machine.hiByte w]
  | .bmiRel off => [off]
  | .andIndy b1 => [b1]
  | .jam32 => []
  | .rlaIndy b1 => [b1]
  | .nopZpx34 b1 => [b1]
  | .andZpx b1 => [b1]
  | .rolZpx b1 => [b1]
  | .rlaZpx b1 => [b1]
  | .sec => []
  | .andAbsy w => [Machine.loByte w, Machine.hiByte w]
  | .nop3A => []
  | .rlaAbsy w => [Machine.loByte w, Machine.hiByte w]
  | .nopAbsx3C w => [Machine.loByte w, Machine.hiByte w]
  | .andAbsx w => [Machine.loByte w, Machine.hiByte w]
  | .rolAbsx w => [Machine.loByte w, Machine.hiByte w]
  | .rlaAbsx w => [Machine.loByte w, Machine.hiByte w]
  | .rti => []
  | .eorIndx b1 => [b1]
  | .jam42 => []
  | .sreIndx b1 => [b1]
  | .nopZp44 b1 => [b1]
  | .eorZp b1 => [b1]
  | .lsrZp b1 => [b1]
  | .sreZp b1 => [b1]
  | .pha => []
  | .eorImm b1 => [b1]
  | .lsrAcc => []
  | .alrImm b1 => [b1]
  | .jmpAbs w => [Machine.loByte w, Machine.hiByte w]
  | .eorAbs w => [Machine.loByte w, Machine.hiByte w]
  | .lsrAbs w => [Machine.loByte w, Machine.hiByte w]
  | .sreAbs w => [Machine.loByte w, Machine.hiByte w]
  | .bvcRel off => [off]
  | .eorIndy b1 => [b1]
  | .jam52 => []
  | .sreIndy b1 => [b1]
  | .nopZpx54 b1 => [b1]
  | .eorZpx b1 => [b1]
  | .lsrZpx b1 => [b1]
  | .sreZpx b1 => [b1]
  | .cli => []
  | .eorAbsy w => [Machine.loByte w, Machine.hiByte w]
  | .nop5A => []
  | .sreAbsy w => [Machine.loByte w, Machine.hiByte w]
  | .nopAbsx5C w => [Machine.loByte w, Machine.hiByte w]
  | .eorAbsx w => [Machine.loByte w, Machine.hiByte w]
  | .lsrAbsx w => [Machine.loByte w, Machine.hiByte w]
  | .sreAbsx w => [Machine.loByte w, Machine.hiByte w]
  | .rts => []
  | .adcIndx b1 => [b1]
  | .jam62 => []
  | .rraIndx b1 => [b1]
  | .nopZp64 b1 => [b1]
  | .adcZp b1 => [b1]
  | .rorZp b1 => [b1]
  | .rraZp b1 => [b1]
  | .pla => []
  | .adcImm b1 => [b1]
  | .rorAcc => []
  | .arrImm b1 => [b1]
  | .jmpInd w => [Machine.loByte w, Machine.hiByte w]
  | .adcAbs w => [Machine.loByte w, Machine.hiByte w]
  | .rorAbs w => [Machine.loByte w, Machine.hiByte w]
  | .rraAbs w => [Machine.loByte w, Machine.hiByte w]
  | .bvsRel off => [off]
  | .adcIndy b1 => [b1]
  | .jam72 => []
  | .rraIndy b1 => [b1]
  | .nopZpx74 b1 => [b1]
  | .adcZpx b1 => [b1]
  | .rorZpx b1 => [b1]
  | .rraZpx b1 => [b1]
  | .sei => []
  | .adcAbsy w => [Machine.loByte w, Machine.hiByte w]
  | .nop7A => []
  | .rraAbsy w => [Machine.loByte w, Machine.hiByte w]
  | .nopAbsx7C w => [Machine.loByte w, Machine.hiByte w]
  | .adcAbsx w => [Machine.loByte w, Machine.hiByte w]
  | .rorAbsx w => [Machine.loByte w, Machine.hiByte w]
  | .rraAbsx w => [Machine.loByte w, Machine.hiByte w]
  | .nopImm80 b1 => [b1]
  | .staIndx b1 => [b1]
  | .nopImm82 b1 => [b1]
  | .saxIndx b1 => [b1]
  | .styZp b1 => [b1]
  | .staZp b1 => [b1]
  | .stxZp b1 => [b1]
  | .saxZp b1 => [b1]
  | .dey => []
  | .nopImm89 b1 => [b1]
  | .txa => []
  | .aneImm b1 => [b1]
  | .styAbs w => [Machine.loByte w, Machine.hiByte w]
  | .staAbs w => [Machine.loByte w, Machine.hiByte w]
  | .stxAbs w => [Machine.loByte w, Machine.hiByte w]
  | .saxAbs w => [Machine.loByte w, Machine.hiByte w]
  | .bccRel off => [off]
  | .staIndy b1 => [b1]
  | .jam92 => []
  | .shaIndy b1 => [b1]
  | .styZpx b1 => [b1]
  | .staZpx b1 => [b1]
  | .stxZpy b1 => [b1]
  | .saxZpy b1 => [b1]
  | .tya => []
  | .staAbsy w => [Machine.loByte w, Machine.hiByte w]
  | .txs => []
  | .tasAbsy w => [Machine.loByte w, Machine.hiByte w]
  | .shyAbsx w => [Machine.loByte w, Machine.hiByte w]
  | .staAbsx w => [Machine.loByte w, Machine.hiByte w]
  | .shxAbsy w => [Machine.loByte w, Machine.hiByte w]
  | .shaAbsy w => [Machine.loByte w, Machine.hiByte w]
  | .ldyImm b1 => [b1]
  | .ldaIndx b1 => [b1]
  | .ldxImm b1 => [b1]
  | .laxIndx b1 => [b1]
  | .ldyZp b1 => [b1]
  | .ldaZp b1 => [b1]
  | .ldxZp b1 => [b1]
  | .laxZp b1 => [b1]
  | .tay => []
  | .ldaImm b1 => [b1]
  | .tax => []
  | .lxaImm b1 => [b1]
  | .ldyAbs w => [Machine.loByte w, Machine.hiByte w]
  | .ldaAbs w => [Machine.loByte w, Machine.hiByte w]
  | .ldxAbs w => [Machine.loByte w, Machine.hiByte w]
  | .laxAbs w => [Machine.loByte w, Machine.hiByte w]
  | .bcsRel off => [off]
  | .ldaIndy b1 => [b1]
  | .jamB2 => []
  | .laxIndy b1 => [b1]
  | .ldyZpx b1 => [b1]
  | .ldaZpx b1 => [b1]
  | .ldxZpy b1 => [b1]
  | .laxZpy b1 => [b1]
  | .clv => []
  | .ldaAbsy w => [Machine.loByte w, Machine.hiByte w]
  | .tsx => []
  | .lasAbsy w => [Machine.loByte w, Machine.hiByte w]
  | .ldyAbsx w => [Machine.loByte w, Machine.hiByte w]
  | .ldaAbsx w => [Machine.loByte w, Machine.hiByte w]
  | .ldxAbsy w => [Machine.loByte w, Machine.hiByte w]
  | .laxAbsy w => [Machine.loByte w, Machine.hiByte w]
  | .cpyImm b1 => [b1]
  | .cmpIndx b1 => [b1]
  | .nopImmC2 b1 => [b1]
  | .dcpIndx b1 => [b1]
  | .cpyZp b1 => [b1]
  | .cmpZp b1 => [b1]
  | .decZp b1 => [b1]
  | .dcpZp b1 => [b1]
  | .iny => []
  | .cmpImm b1 => [b1]
  | .dex => []
  | .sbxImm b1 => [b1]
  | .cpyAbs w => [Machine.loByte w, Machine.hiByte w]
  | .cmpAbs w => [Machine.loByte w, Machine.hiByte w]
  | .decAbs w => [Machine.loByte w, Machine.hiByte w]
  | .dcpAbs w => [Machine.loByte w, Machine.hiByte w]
  | .bneRel off => [off]
  | .cmpIndy b1 => [b1]
  | .jamD2 => []
  | .dcpIndy b1 => [b1]
  | .nopZpxD4 b1 => [b1]
  | .cmpZpx b1 => [b1]
  | .decZpx b1 => [b1]
  | .dcpZpx b1 => [b1]
  | .cld => []
  | .cmpAbsy w => [Machine.loByte w, Machine.hiByte w]
  | .nopDA => []
  | .dcpAbsy w => [Machine.loByte w, Machine.hiByte w]
  | .nopAbsxDC w => [Machine.loByte w, Machine.hiByte w]
  | .cmpAbsx w => [Machine.loByte w, Machine.hiByte w]
  | .decAbsx w => [Machine.loByte w, Machine.hiByte w]
  | .dcpAbsx w => [Machine.loByte w, Machine.hiByte w]
  | .cpxImm b1 => [b1]
  | .sbcIndx b1 => [b1]
  | .nopImmE2 b1 => [b1]
  | .iscIndx b1 => [b1]
  | .cpxZp b1 => [b1]
  | .sbcZp b1 => [b1]
  | .incZp b1 => [b1]
  | .iscZp b1 => [b1]
  | .inx => []
  | .sbcImm b1 => [b1]
  | .nop => []
  | .usbcImm b1 => [b1]
  | .cpxAbs w => [Machine.loByte w, Machine.hiByte w]
  | .sbcAbs w => [Machine.loByte w, Machine.hiByte w]
  | .incAbs w => [Machine.loByte w, Machine.hiByte w]
  | .iscAbs w => [Machine.loByte w, Machine.hiByte w]
  | .beqRel off => [off]
  | .sbcIndy b1 => [b1]
  | .jamF2 => []
  | .iscIndy b1 => [b1]
  | .nopZpxF4 b1 => [b1]
  | .sbcZpx b1 => [b1]
  | .incZpx b1 => [b1]
  | .iscZpx b1 => [b1]
  | .sed => []
  | .sbcAbsy w => [Machine.loByte w, Machine.hiByte w]
  | .nopFA => []
  | .iscAbsy w => [Machine.loByte w, Machine.hiByte w]
  | .nopAbsxFC w => [Machine.loByte w, Machine.hiByte w]
  | .sbcAbsx w => [Machine.loByte w, Machine.hiByte w]
  | .incAbsx w => [Machine.loByte w, Machine.hiByte w]
  | .iscAbsx w => [Machine.loByte w, Machine.hiByte w]

/-- The bytes of an instruction at ascending addresses (R250, R251). -/
def encode (i : Instr) : List Byte := i.opcode :: i.operandBytes

/-- The base cycle count of an instruction (R263). -/
def Instr.baseCycles (i : Instr) : Nat := (rowOf i.opcode).cycles

/-- Whether a page crossing of its index addition costs the instruction a cycle (R263, R345). -/
def Instr.pagePenalty (i : Instr) : Bool := (rowOf i.opcode).pagePenalty

/-- The bus class of an instruction (R310). -/
def Instr.cls (i : Instr) : AccessClass := (rowOf i.opcode).cls

/-- `n` bytes of the number `w`, the byte of its low bits first. -/
def tableBytes (nbits w : Nat) : List Byte := Machine.leBytes (nbits / 8) (w % 2 ^ nbits)

/-- The instruction the decoder reads from the table's bits `w`, `nbits` of them, every further bit 0:
the bytes are laid out as the machine stores them, the first at the lowest address. -/
def decodeTableWord (nbits w : Nat) : Option Instr :=
  match decode (tableBytes nbits w ++ [0#8, 0#8]) with
  | .ok (i, _) => some i
  | .error _ => none

end Sys2Proof
end

