-- ==== Sys2Proof/Machine/Fetch.lean ====
section
/-! DEFINITION. Fetching an instruction's bytes (40_cpu_step.md R306, R310). -/

namespace Sys2Proof.Machine

/-- How many operand bytes the step fetches before it performs the instruction: all of them, except that
JSR's high operand byte is read by its own bus sequence, after the pushes (R535). -/
def fetchedOperands (op : Byte) : Nat :=
  if op = 0x20#8 then 1 else (rowOf op).mode.length - 1

/-- What `peek` finds at an address, without an access (R188). -/
def peekByte (a : Word) : M Byte := fun s => .ok (s.peek a) s

/-- Fetches the opcode (kind `opcode`) and the operand bytes (kind `operand`), and decodes them. Every
opcode byte has a row (R265). JSR's high operand byte is not accessed here: the decoded instruction
shows what `peek` finds at PC, and JSR's meaning reads the byte on the bus (R535). -/
def fetchInstr : M Instr := do
  let op ← fetchKind .opcode
  let row := rowOf op
  match fetchedOperands op, row.mode.length with
  | 0, _ => pure (row.build 0#8 0#8)
  | 1, 3 => do
    let b1 ← fetch
    let c ← getCpu
    let b2 ← peekByte c.pc
    pure (row.build b1 b2)
  | 1, _ => do
    let b1 ← fetch
    pure (row.build b1 0#8)
  | _, _ => do
    let b1 ← fetch
    let b2 ← fetch
    pure (row.build b1 b2)

end Sys2Proof.Machine
end

