-- ==== Sys2Proof/Machine/Scheduler.lean ====
section
/-! DEFINITION. The scheduler around the CPU (47_scheduler.md): the boundary (R750), the stall arbiter
(R732), the chips' ticks (R701, R725), the clock (R53, R54) and the resolution of interrupt lines
(R740). -/

namespace Sys2Proof.Machine

/-! ## The boundary -/

/-- Every chip reset (R753, R707). -/
def resetChips (c : MachineConfig) : Nat → List Chip → List Chip
  | _, [] => []
  | i, chip :: rest => chipReset (specOf c i) i chip :: resetChips c (i + 1) rest

/-- `honour_reset()` (R753). -/
def honourReset (s : State) : State :=
  { s with
    chips := resetChips s.config 0 s.chips
    cpu := { s.cpu with
      resetPending := true
      irqIn := false
      nmiIn := false
      nmiPrev := false
      nmiPending := false }
    bus :=
      { maps := s.config.powerOnMaps
        stores := applyImages s.config.powerOnMaps s.bus.stores s.config.imagesReset
        pendingSwitches := []
        pendingExternal := [] }
    sched := { s.sched with irqRes := false, nmiRes := false, stalls := [] } }

/-- `honour_power_off()` (R760). -/
def honourPowerOff (s : State) : State :=
  { s with sched := { s.sched with run := .stopped, hostReq := HostReq.clear } }

/-- One mapping event of the image loader (R184, R185). An install event is carried out as it stands: the
queue holds only mappings that R56 allows, since `deliverMapEvent` takes and `load` accepts no other (log
entry 23, DESIGN CHOICE). -/
def applyMapEvent (maps : List Mapping) : MapEvent → List Mapping
  | .install m => installMapping maps m
  | .remove r => removeMapping maps r

/-- The due bank switches in FIFO order, each a whole table (R181, R183). -/
def applySwitches (tables : List (List Mapping)) (clock : Nat) :
    List Mapping → List BankSwitch → List Mapping
  | maps, [] => maps
  | maps, b :: rest =>
    if b.effectiveCycle ≤ clock then
      match tables[b.table]? with
      | some t => applySwitches tables clock t rest
      | none => applySwitches tables clock maps rest
    else applySwitches tables clock maps rest

/-- The external events, then the due bank switches, of a boundary (R750). -/
def applyMapChanges (s : State) : State :=
  { s with bus := { s.bus with
    maps := applySwitches s.config.bankTables s.clock
      (s.bus.pendingExternal.foldl applyMapEvent s.bus.maps) s.bus.pendingSwitches
    pendingSwitches := s.bus.pendingSwitches.filter (fun b => !decide (b.effectiveCycle ≤ s.clock))
    pendingExternal := [] } }

/-- The pause and reset requests of a boundary, honoured in that order of effect and cleared (R750). -/
def honourRequests (s : State) : State :=
  let s' := if s.sched.hostReq.reset then honourReset s else s
  { s' with sched := { s'.sched with
    run := if s.sched.hostReq.pause then .paused else s'.sched.run
    hostReq := HostReq.clear } }

/-- `boundary()` (R750). -/
def boundary (s : State) : State :=
  if s.sched.hostReq.powerOff then honourPowerOff s else applyMapChanges (honourRequests s)

/-! ## The stall arbiter -/

/-- Whether a stall's window has elapsed at `now` (R732). -/
def Stall.elapsed (st : Stall) (now : Nat) : Bool := decide (st.fromCycle + st.duration ≤ now)

/-- The first active request and the others, in order (R732). -/
def takeActive (now : Nat) : List Stall → Option (Stall × List Stall)
  | [] => none
  | st :: rest =>
    if st.fromCycle ≤ now then some (st, rest)
    else match takeActive now rest with
      | some (t, others) => some (t, st :: others)
      | none => none

/-- `take_stall(now)` (R732): the elapsed requests go, and the first active one is taken. -/
def takeStall (now : Nat) (stalls : List Stall) : Option Stall × List Stall :=
  let live := stalls.filter (fun st => !st.elapsed now)
  match takeActive now live with
  | some (st, others) => (some st, others)
  | none => (none, live)

/-- The state in which an iteration's round starts: the step's cycle index at 0, the elapsed stalls and the
one taken gone from the queue (R21, R732). -/
def startRound (s : State) : State :=
  { s with
    cycle := 0
    sched := { s.sched with stalls := (takeStall s.clock s.sched.stalls).2 } }

/-- Who masters the bus in the iteration that starts now (R735). -/
def busMaster (s : State) : Performer :=
  match (takeStall s.clock s.sched.stalls).1 with
  | some st => .chip st.chip
  | none => .cpu

/-! ## Ticks -/

/-- The state, unchanged, as a value. -/
def getState : M State := fun s => .ok s s

/-- A change of the state that no fault can meet. -/
def updState (f : State → State) : M Unit := fun s => .ok () (f s)

/-- The bus access a granted chip makes in one cycle, with the byte a read returned (R733). -/
def grantedAccess (i cycle : Nat) : Option ChipAccess → M (Option Byte)
  | none => pure none
  | some (.read a) => do
    let v ← busRead (.chip i) .data cycle a
    pure (some v)
  | some (.write a v) => do
    busWrite (.chip i) .data cycle a v
    pure none

/-- The chip-defined part of one tick cycle, applied (R701, R703, R709, R731, R180). -/
def chipReact (i cycle : Nat) (granted : Bool) (peeked : List Byte) (got : Option Byte) (s : State) :
    State :=
  match s.chips[i]? with
  | none => s
  | some chip =>
    let out := chipTick (specOf s.config i) i granted peeked got chip
    s.react i cycle out.1 out.2

/-- The recorded writes of a video chip whose latch cycle has come (R711). -/
def videoEnter (i cycle : Nat) (s : State) : State :=
  match s.chips[i]? with
  | some (.video v core) => s.setChip i (.video (rasterLatch i cycle v) core)
  | _ => s

/-- The chip-defined part of one tick cycle of chip `i`: it may peek memory, make one bus access if it
holds the grant, and then reacts (R188, R703, R733). A write to its own window that a granted video chip
makes in the cycle enters the pipeline before the cycle is rendered, where its latch cycle is this one
(R711). -/
def coreCycle (i cycle : Nat) (granted : Bool) : M Unit := do
  let s ← getState
  match s.chips[i]? with
  | none => pure ()
  | some chip => do
    let peeked := (chipPeeks (specOf s.config i) i granted chip).map s.peek
    let got ← grantedAccess i cycle
      (if granted then chipAccess (specOf s.config i) i peeked chip else none)
    updState (videoEnter i cycle)
    updState (chipReact i cycle granted peeked got)

/-- The raster's advance, at the end of a cycle (R710). -/
def videoLeave (i : Nat) (s : State) : State :=
  match s.chips[i]? with
  | some (.video v core) =>
    s.setChip i (.video (rasterAdvance (specFrameCycles (specOf s.config i)) v) core)
  | _ => s

/-- `n` bit cells of a disk controller (R713). -/
def runDiskCells (i cycle : Nat) : Nat → State → State
  | 0, s => s
  | n + 1, s =>
    match s.chips[i]? with
    | some (.disk r core) =>
      runDiskCells i cycle n (s.react i cycle (.disk r core) (Config.diskCell i (.disk r core)))
    | _ => s

/-- The bit cells of one cycle of a disk controller, with the remainder kept (R713). -/
def diskCycle (i cycle : Nat) (s : State) : State :=
  match s.chips[i]? with
  | some (.disk r core) =>
    let bit := specBitcell (specOf s.config i)
    runDiskCells i cycle (diskCells bit.1 bit.2 r)
      (s.setChip i (.disk (diskRemainder bit.1 bit.2 r) core))
  | _ => s

/-- The down-counters of an I/O chip after one cycle (R712). -/
def timersCount (i : Nat) (s : State) : State :=
  match s.chips[i]? with
  | some (.io timers core) => s.setChip i (.io (timers.map (downCounterCycle i)) core)
  | _ => s

/-- The lines an I/O chip's expired down-counters assert, at the end of a cycle (R712). -/
def timersAssert (i : Nat) (irq nmi : Bool) (s : State) : State :=
  match s.chips[i]? with
  | some (.io timers core) => s.setChip i (.io timers (assertLines irq nmi core))
  | _ => s

/-- One cycle of chip `i` at clock cycle `cycle` (R701, R702). -/
def chipCycle (i : Nat) (granted : Bool) (cycle : Nat) : M Unit := do
  let s ← getState
  match s.chips[i]? with
  | none => pure ()
  | some (.refTimer t) => updState fun s => s.setChip i (.refTimer (refTimerCycle t))
  | some (.video _ _) => do
    updState (videoEnter i cycle)
    coreCycle i cycle granted
    updState (videoLeave i)
  | some (.io timers _) => do
    updState (timersCount i)
    coreCycle i cycle granted
    updState (timersAssert i (countersExpire i false timers) (countersExpire i true timers))
  | some (.disk _ _) => do
    updState (diskCycle i cycle)
    coreCycle i cycle granted
  | some (.audio _) => coreCycle i cycle granted
  | some (.other _) => coreCycle i cycle granted

/-- `chips[i].tick(n, granted)` for the cycles `from` to `from + n - 1`: the chip is a per-cycle machine
run `n` times (R701, R702). -/
def tickChip (i : Nat) (granted : Bool) : Nat → Nat → M Unit
  | _, 0 => pure ()
  | start, n + 1 => do
    chipCycle i granted start
    tickChip i granted (start + 1) n

/-- The ticks of one iteration, every chip once and by the same count, in the given order (R724, R725);
only the holder of the grant is granted the bus (R733). -/
def tickAll (holder : Option Nat) (start n : Nat) : List Nat → M Unit
  | [] => pure ()
  | i :: rest => do
    tickChip i (holder == some i) start n
    tickAll holder start n rest

/-! ## Clock and interrupt lines -/

/-- `advance(n)` (R53, R54). -/
def advance (n : Nat) : M Unit := fun s =>
  if s.clock + n < Config.clockLimit then .ok () { s with clock := s.clock + n }
  else .error (.clockOverflow s.clock) s

/-- `resolve()` (R740): the lines ORed per class, presented to the CPU, and the NMI edge latched (R876). -/
def resolveLines (s : State) : State :=
  let irq := s.chips.any chipIrq
  let nmi := s.chips.any chipNmi
  { s with
    sched := { s.sched with irqRes := irq, nmiRes := nmi }
    cpu := { s.cpu with
      irqIn := irq
      nmiIn := nmi
      nmiPending := s.cpu.nmiPending || (nmi && !s.cpu.nmiPrev)
      nmiPrev := nmi } }

/-! ## Rounds -/

/-- The end of an iteration that lasts `n` cycles from the clock's value: the clock advances, every chip
ticks the same cycles, and the lines are resolved (R720, R722, R723). -/
def passCycles (holder : Option Nat) (n : Nat) : M Unit := do
  let s ← getState
  advance n
  tickAll holder s.clock n s.config.chipOrder
  updState resolveLines

/-- A part of an iteration, with a fault it meets recorded and its earlier effects kept (R728, R905). -/
def settle (p : M Unit) (s : State) : State :=
  match p s with
  | .ok _ s' => s'
  | .error f s' => s'.raise f

/-- A stall round for the request taken: its remaining cycles pass with the bus granted to the requester
(R720, R733). -/
def stallRound (st : Stall) (s : State) : State :=
  settle (passCycles (some st.chip) (st.fromCycle + st.duration - s.clock)) s

/-- The end of a CPU round: if the step met no fault, its `k` cycles pass, with the bus granted to no
chip (R720, R728). -/
def finishRound (s : State) : State :=
  match s.sched.fault with
  | some _ => s
  | none => settle (do passCycles none s.cycle; updState fun t => t.setCycle 0) s

/-- The five kinds of step (R300). -/
inductive StepKind where
  | resetSequence
  | jammedIdle
  | interrupt (i : Interrupt)
  | instruction
deriving DecidableEq, Repr

/-- The step-start selection (R302, R871). -/
def stepKind (c : Cpu) : StepKind :=
  if c.resetPending then .resetSequence
  else if c.jammed then .jammedIdle
  else if c.nmiPending then .interrupt .nmi
  else if c.irqIn && !c.flagI then .interrupt .irq
  else .instruction

end Sys2Proof.Machine
end

