-- ==== Sys2Proof/Machine/Step.lean ====
section
/-! DEFINITION. One step of the machine: one iteration of the scheduler's loop (47_scheduler.md R720),
and the placing of an instruction where the next step fetches. -/

namespace Sys2Proof.Machine

/-- `step()` of the CPU and the rest of its round (R302, R720): an instruction is fetched, decoded and
executed; the other four kinds of step execute none. -/
def cpuRound (s : State) : Result :=
  match stepKind s.cpu with
  | .resetSequence => .next (finishRound (settle resetSequence s))
  | .jammedIdle => .next (finishRound (settle jammedIdle s))
  | .interrupt i => .next (finishRound (settle (interruptEntry i) s))
  | .instruction =>
    match fetchInstr s with
    | .error f s' => .next (s'.raise f)
    | .ok i s' =>
      match exec i s' with
      | .next s'' => .next (finishRound s'')
      | .fault f => .fault f
      | .refused r => .refused r

/-- One iteration from the state its boundary leaves (R720): nothing more if the boundary left the loop
not running, a stall round if a stall is active, a CPU round otherwise. -/
def iterate (s : State) : Result :=
  match s.sched.run with
  | .running =>
    match (takeStall s.clock s.sched.stalls).1 with
    | some st => .next (stallRound st (startRound s))
    | none => cpuRound (startRound s)
  | .idle | .paused | .stopped => .next s

/-- One step of the machine. A machine with a recorded fault makes no further progress, and the step
answers the fault (R81, R905). While the loop is not running nothing happens (R716). Otherwise it is
one iteration (R720). -/
def step (s : State) : Host.Outcome State Fault Refusal :=
  match s.sched.fault with
  | some f => .fault f
  | none =>
    match s.sched.run with
    | .running => iterate (boundary s)
    | .idle | .paused | .stopped => .next s

/-- Bytes put at ascending addresses, where the mapping table now leads, as the image loader puts them. -/
def State.placeBytes (s : State) (a : Word) (bytes : List Byte) : State :=
  { s with bus := { s.bus with stores := applyImageBytes s.bus.maps s.bus.stores a bytes } }

/-- `s` with the instruction whose table bits are `w` at PC, every further byte of the longest
instruction 0, and with what the very next step needs to fetch it: the loop running with no fault, no
host request, no queued mapping change and no queued stall, and a CPU that is neither about to be reset
nor jammed and has no interrupt to take. PC must lie where the mapping table has RAM or ROM, as it
does in `State.reset`. -/
def State.withFetchWord (s : State) (nbits w : Nat) : State :=
  let t := s.placeBytes s.cpu.pc (tableBytes nbits w ++ List.replicate (3 - nbits / 8) 0#8)
  { t with
    bus := { t.bus with pendingSwitches := [], pendingExternal := [] }
    cpu := { t.cpu with
      resetPending := false
      jammed := false
      nmiPending := false
      irqIn := false }
    sched := { t.sched with
      run := .running
      stalls := []
      hostReq := HostReq.clear
      fault := none } }

end Sys2Proof.Machine
end

