-- ==== Sys2Proof/Machine/Construct.lean ====
section
/-! DEFINITION. The configuration check and construction (70_reset_and_hazards.md R950, R955). -/

namespace Sys2Proof.Machine

/-- The configuration errors, in the order they are checked (R955). -/
inductive ConfigError where
  | badParameter
  | badMapping
  | overlappingMappings
  | missingRequiredRange
  | badImage
  | badChip
deriving DecidableEq, Repr

/-- Whether a video chip's periods are in their domain: not 0, and a frame a whole number of lines
(R16, R710, R955). -/
def videoPeriodsOk : ChipSpec → Bool
  | .video frame line _ => decide (0 < frame) && decide (0 < line) && frame % line == 0
  | .refTimer | .io _ _ | .disk _ _ _ | .audio _ | .other _ => true

/-- Whether the numbers of the configuration fit the fields that hold them: store ids and sizes and their
count (R812), the chip indices of the component ids (R808), the table indices (R813). DEDUCED, log entry
14. -/
def widthsOk (c : MachineConfig) : Bool :=
  c.stores.all (fun st => decide (st.id < 2 ^ 16) && decide (st.size < 2 ^ 32))
    && decide (c.stores.length < 2 ^ 16)
    && decide (c.chips.length ≤ 0xFF00)
    && decide (c.bankTables.length ≤ 2 ^ 16)

/-- Check 1: every parameter is in its domain (R955, R16). CHIP_ORDER is the chip index order (R16, R724,
D33): every other order is refused, as one that is no permutation is (R955; DEDUCED, log entry 14). -/
def parametersOk (c : MachineConfig) : Bool :=
  c.chips.all videoPeriodsOk
    && (c.snapHeaderBytes == 4 || c.snapHeaderBytes == 8)
    && c.chipOrder == List.range c.chips.length
    && (c.irqClasses.length == 2 && c.irqClasses.contains .irq && c.irqClasses.contains .nmi)
    && widthsOk c

/-- Whether the configuration has a store of this id and kind with at least `length` bytes (R56, R58).
Where two configured stores have one id, which R955 does not refuse, the id names the first of them in
configuration order, here and in every access (log entry 24, DESIGN CHOICE). -/
def storeHolds (c : MachineConfig) (id : Nat) (kind : StoreKind) (length : Nat) : Bool :=
  match c.stores.find? (fun st => st.id == id) with
  | some st => decide (st.kind = kind) && decide (length ≤ st.size)
  | none => false

/-- Whether a mapping is sound: not empty, inside the address space, and owned by a store of its kind
that is long enough or by a chip (R56, R955). -/
def mappingOk (c : MachineConfig) (m : Mapping) : Bool :=
  decide (0 < m.length) && decide (m.start.toNat + m.length ≤ 0x10000)
    && (match m.kind with
      | .ram => storeHolds c m.owner .ram m.length
      | .rom => storeHolds c m.owner .rom m.length
      | .ioWindow => decide (m.owner < c.chips.length))

/-- Whether a mapping event may be queued: an installed mapping is sound (R56), and a removed range fits the
field that holds it (R814). DESIGN CHOICE, log entry 23. A reference timer's window of a length other than 4
is not refused here (log entry 26, DESIGN CHOICE). -/
def mapEventOk (c : MachineConfig) : MapEvent → Bool
  | .install m => mappingOk c m
  | .remove r => decide (r.length < 2 ^ 32)

/-- The tables a check looks at: the given one and every table a bank switch may install (R955). -/
def checkedTables (c : MachineConfig) (table : List Mapping) : List (List Mapping) :=
  table :: c.bankTables

/-- Whether an address `n` lies in the address space and a property holds of what it selects. -/
def addressHas (table : List Mapping) (n : Nat) (p : Target → Bool) : Bool :=
  decide (n < 0x10000) && p (target table (BitVec.ofNat 16 n))

/-- Whether a property holds of what each address of a range selects. -/
def rangeHas (table : List Mapping) (p : Target → Bool) (r : AddrRange) : Bool :=
  (List.range r.length).all (fun j => addressHas table (r.start.toNat + j) p)

/-- Mapped at all (R179). -/
def targetMapped : Target → Bool
  | .store _ _ _ => true
  | .chip _ _ => true
  | .unmapped => false

/-- Mapped to a RAM or ROM store (R955, R957). -/
def targetStored : Target → Bool
  | .store _ _ _ => true
  | .chip _ _ => false
  | .unmapped => false

/-- Check 5 of one image tuple (R955). -/
def imageOk (table : List Mapping) (im : Image) : Bool :=
  im.bytes.length == im.range.length && rangeHas table targetStored im.range

/-- Whether every window a table gives chip `i` suits the chip: a reference timer's is 4 bytes long
(R915, R955). R915 speaks of one window; a timer that a table gives no window, or several of 4 bytes each, is
accepted (log entry 26, DESIGN CHOICE). -/
def windowsOk (tables : List (List Mapping)) (i : Nat) : ChipSpec → Bool
  | .refTimer =>
    tables.all (fun t => t.all (fun m =>
      !(decide (m.kind = .ioWindow) && m.owner == i) || m.length == 4))
  | .disk _ den _ => decide (0 < den)
  | .video _ _ _ | .io _ _ | .audio _ | .other _ => true

/-- Check 6, from chip `i` on (R955). -/
def chipsOk (tables : List (List Mapping)) : Nat → List ChipSpec → Bool
  | _, [] => true
  | i, sp :: rest => windowsOk tables i sp && chipsOk tables (i + 1) rest

/-- The configuration check against a mapping table: the first error in the order of R955. -/
def checkConfig (c : MachineConfig) (table : List Mapping) : Option ConfigError :=
  if !parametersOk c then some .badParameter
  else if !((checkedTables c table).all (fun t => t.all (mappingOk c))) then some .badMapping
  else if !((checkedTables c table).all mapsDisjoint) then some .overlappingMappings
  else if !(c.requiredRanges.all (rangeHas table targetMapped)) then some .missingRequiredRange
  else if !((c.imagesPowerOn ++ c.imagesReset).all (imageOk c.powerOnMaps)) then some .badImage
  else if !(chipsOk (checkedTables c table) 0 c.chips) then some .badChip
  else none

/-- `construct(config)` (R950): the machine in Idle, or the configuration error. -/
def construct (c : MachineConfig) : Except ConfigError State :=
  match checkConfig c c.powerOnMaps with
  | some e => .error e
  | none => .ok (State.powerOn c)

end Sys2Proof.Machine
end

