-- ==== Sys2Proof/Machine/HostControl.lean ====
section
/-! DEFINITION. The host control surface (47_scheduler.md R751, R752) and the image loader's events
(20_memory.md R184). Each call is a function of the state, made between two steps. -/

namespace Sys2Proof.Machine

/-- `pause()` (R752). -/
def hostPause (s : State) : State :=
  match s.sched.fault, s.sched.run with
  | none, .running =>
    { s with sched := { s.sched with hostReq := { s.sched.hostReq with pause := true } } }
  | _, _ => s

/-- `resume()` (R752): the configuration check from Idle, whose error leaves the machine in Idle; a
pause not yet honoured is cancelled while Running. -/
def hostResume (s : State) : Except ConfigError State :=
  match s.sched.fault, s.sched.run with
  | none, .idle =>
    match checkConfig s.config s.bus.maps with
    | some e => .error e
    | none => .ok { s with sched := { s.sched with run := .running } }
  | none, .running =>
    .ok { s with sched := { s.sched with hostReq := { s.sched.hostReq with pause := false } } }
  | none, .paused => .ok { s with sched := { s.sched with run := .running } }
  | _, _ => .ok s

/-- `reset()` (R752, R961). -/
def hostReset (s : State) : State :=
  match s.sched.fault, s.sched.run with
  | none, .running =>
    { s with sched := { s.sched with hostReq := { s.sched.hostReq with reset := true } } }
  | none, .idle => honourReset s
  | none, .paused => honourReset s
  | _, _ => s

/-- `power_off()` (R752, R760, R905): at once unless the loop is running. -/
def hostPowerOff (s : State) : State :=
  match s.sched.fault, s.sched.run with
  | _, .stopped => s
  | none, .running =>
    { s with sched := { s.sched with hostReq := { s.sched.hostReq with powerOff := true } } }
  | _, _ => honourPowerOff s

/-- A cartridge event of the image loader, queued for the next boundary (R184). DESIGN CHOICE, log entry
23: R184 speaks of delivery while the machine runs; the model queues the event in Idle, Running and Paused
alike, and ignores it while a fault is recorded or in Stopped (R23, R760), where the spec is silent. So it
does with an install event whose mapping breaks R56: a length of 0, an end past 0x10000, an owner that is no
store of its kind or no chip, a length beyond its store's size. -/
def deliverMapEvent (e : MapEvent) (s : State) : State :=
  if s.sched.fault = none ∧ s.sched.run ≠ .stopped ∧ mapEventOk s.config e = true then
    { s with bus := { s.bus with pendingExternal := s.bus.pendingExternal ++ [e] } }
  else s

/-- Iterations while the loop is running, no fault is set and the clock is below `limit`, at most
`fuel` of them (R729). -/
def runUntil (limit : Nat) : Nat → State → State
  | 0, s => s
  | fuel + 1, s =>
    if s.sched.fault = none ∧ s.sched.run = .running ∧ s.clock < limit then
      match step s with
      | .next s' => runUntil limit fuel s'
      | .fault _ => s
      | .refused _ => s
    else s

/-- `run_for(N)` (R729). An iteration that goes on advances the clock (R727), so `N` of them suffice. -/
def runFor (n : Nat) (s : State) : State := runUntil (s.clock + n) n s

end Sys2Proof.Machine
end

