-- ==== Sys2Proof/Machine/Snapshot.lean ====
section
/-! DEFINITION. The snapshot serializer (48_snapshot.md): `save` and `load`, their framing (R806 to
R808), the payloads (R810 to R824, 60_exceptions.md R928) and the load checks (R830 to R834). -/

namespace Sys2Proof.Machine

/-- The errors of `save` and `load` (R831 to R833, R840). -/
inductive SnapshotError where
  | formatVersion
  | truncatedData
  | malformedData
  | invalidState
deriving DecidableEq, Repr

/-! ## Encoding -/

/-- A `bool` is one byte (R805). -/
def boolByte (b : Bool) : List Byte := [bitByte b]

/-- The kind byte of a mapping (R811). -/
def mapKindCode : MapKind → Nat
  | .ram => 0
  | .rom => 1
  | .ioWindow => 2

/-- The kind byte of a store (R812). -/
def storeKindCode : StoreKind → Nat
  | .ram => 0
  | .rom => 1

/-- One entry of the mapping table, 9 bytes (R811). -/
def saveMapping (m : Mapping) : List Byte :=
  leBytes 2 m.start.toNat ++ leBytes 4 m.length ++ leBytes 1 (mapKindCode m.kind) ++ leBytes 2 m.owner

/-- One backing store (R812). -/
def saveStore (st : Store) : List Byte :=
  leBytes 2 st.id ++ leBytes 1 (storeKindCode st.kind) ++ leBytes 4 st.size
    ++ st.bytes.bytesFrom 0 st.size

/-- One pending bank switch (R813). -/
def saveSwitch (b : BankSwitch) : List Byte := leBytes 8 b.effectiveCycle ++ leBytes 2 b.table

/-- One pending mapping event, 10 bytes (R814). -/
def saveEvent : MapEvent → List Byte
  | .install m => leBytes 1 1 ++ saveMapping m
  | .remove r =>
    leBytes 1 2 ++ leBytes 2 r.start.toNat ++ leBytes 4 r.length ++ leBytes 1 0 ++ leBytes 2 0

/-- A count and the items it counts (R811 to R814, R824). -/
def saveList {α : Type} (item : α → List Byte) (xs : List α) : List Byte :=
  leBytes 2 xs.length ++ (xs.map item).flatten

/-- The Bus payload (R815). -/
def saveBus (b : Bus) : List Byte :=
  saveList saveMapping b.maps ++ saveList saveStore b.stores ++ saveList saveSwitch b.pendingSwitches
    ++ saveList saveEvent b.pendingExternal

/-- Byte 7 of the CPU payload (R822). -/
def cpuInternalByte (c : Cpu) : Byte :=
  bitByte c.resetPending ||| (bitByte c.jammed <<< 1) ||| (bitByte c.irqIn <<< 2)
    ||| (bitByte c.nmiIn <<< 3) ||| (bitByte c.nmiPrev <<< 4) ||| (bitByte c.nmiPending <<< 5)

/-- The CPU payload, 8 bytes (R822). -/
def saveCpu (c : Cpu) : List Byte :=
  [c.a, c.x, c.y, c.s, loByte c.pc, hiByte c.pc, c.pByte false, cpuInternalByte c]

/-- The payload of a reference timer, 6 bytes (R928). -/
def saveRefTimer (t : RefTimer) : List Byte :=
  [loByte t.latch, hiByte t.latch, loByte t.counter, hiByte t.counter, t.ctrl, bitByte t.evt]

/-! A chip other than the reference timer is written field by field, each field ending where it says; its
layout (`Config.chipLayout`) then makes the payload of it (log entry 7). -/

/-- A number of any size: as many ones as it has bytes, a zero, and the bytes. -/
def natBytes (n : Nat) : List Byte :=
  let k := n.log2 / 8 + 1
  List.replicate k 0x01#8 ++ 0x00#8 :: leBytes k n

/-- A sequence of any length. -/
def seqBytes {α : Type} (item : α → List Byte) (xs : List α) : List Byte :=
  natBytes xs.length ++ (xs.map item).flatten

/-- A byte array of any length. -/
def arrayBytes (bs : List Byte) : List Byte := seqBytes (fun b => [b]) bs

/-- A latched register value. -/
def valueBytes (p : PipelineValue) : List Byte := natBytes p.offset ++ natBytes p.since ++ [p.value]

/-- A write that is not latched yet. -/
def latchBytes (w : LatchedWrite) : List Byte := natBytes w.stamp ++ natBytes w.offset ++ [w.value]

/-- A down-counter. -/
def counterBytes (d : DownCounter) : List Byte :=
  natBytes d.counter ++ natBytes d.reload ++ boolByte d.running ++ boolByte d.oneShot
    ++ boolByte d.nonMaskable

/-- The register bank and the lines (R820). -/
def coreBytes (core : ChipCore) : List Byte :=
  arrayBytes core.bank ++ boolByte core.irq ++ boolByte core.nmi

/-- The raster (R820, R711). -/
def rasterBytes (v : VideoState) : List Byte :=
  natBytes v.phase ++ natBytes v.frames ++ seqBytes valueBytes v.pipeline ++ seqBytes latchBytes v.latches
    ++ arrayBytes v.render

/-- Every field of a chip other than the reference timer (R820). -/
def chipBytes : Chip → List Byte
  | .refTimer t => saveRefTimer t
  | .video v core => rasterBytes v ++ coreBytes core
  | .io timers core => seqBytes counterBytes timers ++ coreBytes core
  | .disk r core => natBytes r ++ coreBytes core
  | .audio core => coreBytes core
  | .other core => coreBytes core

/-- A chip's `save_state()` (R820, R928). -/
def saveChip (i : Nat) : Chip → List Byte
  | .refTimer t => saveRefTimer t
  | chip => Config.chipLayout i (chipBytes chip)

/-- One pending stall (R824). -/
def saveStall (st : Stall) : List Byte :=
  leBytes 8 st.fromCycle ++ leBytes 4 st.duration ++ leBytes 2 st.chip

/-- The Scheduler payload (R824). -/
def saveSched (sc : Sched) : List Byte :=
  boolByte sc.irqRes ++ boolByte sc.nmiRes ++ saveList saveStall sc.stalls

/-- One component record `id, length, payload` (R807). -/
def saveRecord (id : Nat) (payload : List Byte) : List Byte :=
  leBytes 2 id ++ leBytes 4 payload.length ++ payload

/-- The component ids (R808). -/
def clockId : Nat := 0x0001
/-- The component ids (R808). -/
def busId : Nat := 0x0002
/-- The component ids (R808). -/
def cpuId : Nat := 0x0003
/-- The component ids (R808). -/
def schedId : Nat := 0x0004
/-- The component id of chip `i` (R808). -/
def chipId (i : Nat) : Nat := 0x0100 + i

/-- The record of chip `i` (R808, R820). -/
def saveChipRecord (chips : List Chip) (i : Nat) : List Byte :=
  match chips[i]? with
  | some c => saveRecord (chipId i) (saveChip i c)
  | none => saveRecord (chipId i) []

/-- The bytes of a snapshot of this state (R806 to R808). -/
def snapshotBytes (s : State) : List Byte :=
  leBytes s.config.snapHeaderBytes s.config.snapVersion.toNat
    ++ saveRecord clockId (leBytes 8 s.clock)
    ++ saveRecord busId (saveBus s.bus)
    ++ saveRecord cpuId (saveCpu s.cpu)
    ++ (s.config.chipOrder.map (saveChipRecord s.chips)).flatten
    ++ saveRecord schedId (saveSched s.sched)

/-- `save()` (R800, R801, R840): only in Idle or Paused with no fault, and the machine is unchanged. -/
def save (s : State) : Except SnapshotError (List Byte) :=
  match s.sched.fault, s.sched.run with
  | none, .idle => .ok (snapshotBytes s)
  | none, .paused => .ok (snapshotBytes s)
  | _, _ => .error .invalidState

/-! ## Parsing

Every parser gives the value and the bytes after it, or nothing where the payload is malformed. -/

/-- An `n`-byte unsigned integer (R805). -/
def readUint (n : Nat) (bs : List Byte) : Option (Nat × List Byte) :=
  if bs.length < n then none else some (leValue (bs.take n), bs.drop n)

/-- A `bool` (R805). -/
def readBool (bs : List Byte) : Option (Bool × List Byte) := do
  let (n, bs) ← readUint 1 bs
  match n with
  | 0 => some (false, bs)
  | 1 => some (true, bs)
  | _ => none

/-- `n` items. -/
def readItems {α : Type} (item : List Byte → Option (α × List Byte)) :
    Nat → List Byte → Option (List α × List Byte)
  | 0, bs => some ([], bs)
  | n + 1, bs => do
    let (x, bs) ← item bs
    let (xs, bs) ← readItems item n bs
    some (x :: xs, bs)

/-- A count and the items it counts. -/
def readList {α : Type} (item : List Byte → Option (α × List Byte)) (bs : List Byte) :
    Option (List α × List Byte) := do
  let (n, bs) ← readUint 2 bs
  readItems item n bs

/-- A mapping's kind (R811, R833). -/
def mapKindOf : Nat → Option MapKind
  | 0 => some .ram
  | 1 => some .rom
  | 2 => some .ioWindow
  | _ => none

/-- A store's kind (R812, R833). -/
def storeKindOf : Nat → Option StoreKind
  | 0 => some .ram
  | 1 => some .rom
  | _ => none

/-- One entry of the mapping table (R811). -/
def readMapping (bs : List Byte) : Option (Mapping × List Byte) := do
  let (start, bs) ← readUint 2 bs
  let (length, bs) ← readUint 4 bs
  let (kind, bs) ← readUint 1 bs
  let (owner, bs) ← readUint 2 bs
  let kind ← mapKindOf kind
  some ({ start := BitVec.ofNat 16 start, length := length, kind := kind, owner := owner }, bs)

/-- One backing store (R812). -/
def readStore (bs : List Byte) : Option (Store × List Byte) := do
  let (id, bs) ← readUint 2 bs
  let (kind, bs) ← readUint 1 bs
  let (size, bs) ← readUint 4 bs
  let kind ← storeKindOf kind
  if bs.length < size then none
  else some ({ id := id, kind := kind, size := size, bytes := Memory.ofBytesFrom 0 (bs.take size) },
    bs.drop size)

/-- One pending bank switch (R813). -/
def readSwitch (bs : List Byte) : Option (BankSwitch × List Byte) := do
  let (effective, bs) ← readUint 8 bs
  let (table, bs) ← readUint 2 bs
  some ({ effectiveCycle := effective, table := table }, bs)

/-- One pending mapping event; a remove's kind and owner are zero (R814). -/
def readEvent (bs : List Byte) : Option (MapEvent × List Byte) := do
  let (op, bs) ← readUint 1 bs
  let (m, bs) ← readMapping bs
  match op with
  | 1 => some (.install m, bs)
  | 2 =>
    if m.kind = .ram ∧ m.owner = 0 then some (.remove { start := m.start, length := m.length }, bs)
    else none
  | _ => none

/-- The value of a parse that consumed its payload exactly (R833). -/
def exactly {α : Type} : Option (α × List Byte) → Option α
  | some (x, []) => some x
  | _ => none

/-- The Bus payload (R815). -/
def readBus (bs : List Byte) : Option Bus := exactly (do
  let (maps, bs) ← readList readMapping bs
  let (stores, bs) ← readList readStore bs
  let (switches, bs) ← readList readSwitch bs
  let (events, bs) ← readList readEvent bs
  some ({ maps := maps, stores := stores, pendingSwitches := switches, pendingExternal := events }, bs))

/-- The Clock payload (R810). -/
def readClock (bs : List Byte) : Option Nat := exactly (readUint 8 bs)

/-- The CPU payload: bits 5 and 4 of P are ignored, and bits 7:6 of byte 7 are zero (R66, R822). -/
def readCpu : List Byte → Option Cpu
  | [a, x, y, sp, pcl, pch, p, internal] =>
    if internal.getLsbD 6 || internal.getLsbD 7 then none
    else some
      { a := a, x := x, y := y, s := sp, pc := mkWord pch pcl
        flagN := p.getLsbD 7, flagV := p.getLsbD 6, flagD := p.getLsbD 3, flagI := p.getLsbD 2
        flagZ := p.getLsbD 1, flagC := p.getLsbD 0
        resetPending := internal.getLsbD 0, jammed := internal.getLsbD 1
        irqIn := internal.getLsbD 2, nmiIn := internal.getLsbD 3
        nmiPrev := internal.getLsbD 4, nmiPending := internal.getLsbD 5 }
  | _ => none

/-- The payload of a reference timer (R928). -/
def readRefTimer : List Byte → Option RefTimer
  | [ll, lh, cl, ch, ctrl, status] =>
    if ctrl &&& 0xF0#8 = 0#8 ∧ status &&& 0xFE#8 = 0#8 then
      some { latch := mkWord lh ll, counter := mkWord ch cl, ctrl := ctrl, evt := status.getLsbD 0 }
    else none
  | _ => none

/-- The ones before a zero, and the bytes after it. -/
def readOnes : List Byte → Option (Nat × List Byte)
  | [] => none
  | b :: bs =>
    if b = 0x00#8 then some (0, bs)
    else if b = 0x01#8 then (readOnes bs).map fun r => (r.1 + 1, r.2)
    else none

/-- A number of any size. One written with more bytes than `natBytes` gives it is read here, and the payload
that holds it is refused by `readChip` (log entry 27, DESIGN CHOICE). -/
def readNat (bs : List Byte) : Option (Nat × List Byte) := do
  let (k, bs) ← readOnes bs
  readUint k bs

/-- A byte. -/
def readByte : List Byte → Option (Byte × List Byte)
  | [] => none
  | b :: bs => some (b, bs)

/-- A sequence of any length. -/
def readSeq {α : Type} (item : List Byte → Option (α × List Byte)) (bs : List Byte) :
    Option (List α × List Byte) := do
  let (n, bs) ← readNat bs
  readItems item n bs

/-- A latched register value. -/
def readValue (bs : List Byte) : Option (PipelineValue × List Byte) := do
  let (offset, bs) ← readNat bs
  let (since, bs) ← readNat bs
  let (value, bs) ← readByte bs
  some ({ offset := offset, value := value, since := since }, bs)

/-- A write that is not latched yet. -/
def readLatch (bs : List Byte) : Option (LatchedWrite × List Byte) := do
  let (stamp, bs) ← readNat bs
  let (offset, bs) ← readNat bs
  let (value, bs) ← readByte bs
  some ({ stamp := stamp, offset := offset, value := value }, bs)

/-- A down-counter. -/
def readCounter (bs : List Byte) : Option (DownCounter × List Byte) := do
  let (counter, bs) ← readNat bs
  let (reload, bs) ← readNat bs
  let (running, bs) ← readBool bs
  let (oneShot, bs) ← readBool bs
  let (nonMaskable, bs) ← readBool bs
  some ({ counter := counter, reload := reload, running := running, oneShot := oneShot,
          nonMaskable := nonMaskable }, bs)

/-- The register bank and the lines. -/
def readCore (bs : List Byte) : Option (ChipCore × List Byte) := do
  let (bank, bs) ← readSeq readByte bs
  let (irq, bs) ← readBool bs
  let (nmi, bs) ← readBool bs
  some ({ bank := bank, irq := irq, nmi := nmi }, bs)

/-- The raster. -/
def readRaster (bs : List Byte) : Option (VideoState × List Byte) := do
  let (phase, bs) ← readNat bs
  let (frames, bs) ← readNat bs
  let (pipeline, bs) ← readSeq readValue bs
  let (latches, bs) ← readSeq readLatch bs
  let (render, bs) ← readSeq readByte bs
  some ({ phase := phase, frames := frames, pipeline := pipeline, latches := latches,
          render := render }, bs)

/-- Every field of a chip of the configured kind, other than the reference timer. -/
def readFields (spec : ChipSpec) (bs : List Byte) : Option (Chip × List Byte) :=
  match spec with
  | .refTimer => none
  | .video _ _ _ => do
    let (v, bs) ← readRaster bs
    let (core, bs) ← readCore bs
    some (.video v core, bs)
  | .io _ _ => do
    let (timers, bs) ← readSeq readCounter bs
    let (core, bs) ← readCore bs
    some (.io timers core, bs)
  | .disk _ _ _ => do
    let (r, bs) ← readNat bs
    let (core, bs) ← readCore bs
    some (.disk r core, bs)
  | .audio _ => do
    let (core, bs) ← readCore bs
    some (.audio core, bs)
  | .other _ => do
    let (core, bs) ← readCore bs
    some (.other core, bs)

/-- A chip's `load_state` (R820, R928, R833): the chip in range (R710, R713) whose `save_state` is exactly this
payload. That every other payload is the chip's error is the model's choice for a chip other than the
reference timer (log entry 27, DESIGN CHOICE). -/
def readChip (spec : ChipSpec) (i : Nat) (bs : List Byte) : Option Chip :=
  (match spec with
    | .refTimer => (readRefTimer bs).map Chip.refTimer
    | .video _ _ _ | .io _ _ | .disk _ _ _ | .audio _ | .other _ =>
      exactly (readFields spec ((Config.chipLayout i).symm bs))).filter
    (fun c => chipInRange spec c && saveChip i c == bs)

/-- One pending stall (R824). -/
def readStall (bs : List Byte) : Option (Stall × List Byte) := do
  let (start, bs) ← readUint 8 bs
  let (duration, bs) ← readUint 4 bs
  let (chip, bs) ← readUint 2 bs
  some ({ fromCycle := start, duration := duration, chip := chip }, bs)

/-- The Scheduler payload: the resolved levels and the stalls (R824). -/
def readSched (bs : List Byte) : Option ((Bool × Bool) × List Stall) := exactly (do
  let (irq, bs) ← readBool bs
  let (nmi, bs) ← readBool bs
  let (stalls, bs) ← readList readStall bs
  some (((irq, nmi), stalls), bs))

/-! ## Loading -/

/-- The next record, whose id must be the expected one: its payload and the bytes after it (R830). -/
def takeRecord (id : Nat) (bs : List Byte) : Except SnapshotError (List Byte × List Byte) :=
  if bs.length < 6 then .error .truncatedData
  else if leValue (bs.take 2) ≠ id then .error .malformedData
  else
    let length := leValue ((bs.drop 2).take 4)
    let body := bs.drop 6
    if body.length < length then .error .truncatedData
    else .ok (body.take length, body.drop length)

/-- A payload's parse, or `MalformedDataError` (R830). -/
def orMalformed {α : Type} : Option α → Except SnapshotError α
  | some x => .ok x
  | none => .error .malformedData

/-- The chips' records in `CHIP_ORDER`, each put at its index (R808, R830). -/
def readChips (c : MachineConfig) : List Nat → List Chip → List Byte →
    Except SnapshotError (List Chip × List Byte)
  | [], chips, bs => .ok (chips, bs)
  | i :: rest, chips, bs => do
    let (payload, bs) ← takeRecord (chipId i) bs
    let chip ← orMalformed (readChip (specOf c i) i payload)
    readChips c rest (chips.set i chip) bs

/-- Whether the parsed stores are the configured ones: the same ids, kinds and sizes in increasing id
order (R812, R833). -/
def storesMatch (c : MachineConfig) (stores : List Store) : Bool :=
  decide (stores.map (fun st => (st.id, st.kind, st.size))
    = (initialStores c.stores).map (fun st => (st.id, st.kind, st.size)))

/-- The candidate's invariants (R833); a mapping waiting to be installed must be as sound as one of the
table (DEDUCED, log entry 18). A reference timer's window of a length other than 4 is not refused here, since R833
does not name it (log entry 26, DESIGN CHOICE). -/
def candidateOk (c : MachineConfig) (b : Bus) (stalls : List Stall) : Bool :=
  b.maps.all (mappingOk c) && mapsDisjoint b.maps && storesMatch c b.stores
    && b.pendingSwitches.all (fun w => decide (w.table < c.bankTables.length))
    && b.pendingExternal.all (mapEventOk c)
    && stalls.all (fun st => decide (st.chip < c.chips.length) && decide (0 < st.duration))

/-- The candidate state of a snapshot, or the first error (R830 to R833). -/
def parseSnapshot (s : State) (bytes : List Byte) : Except SnapshotError State :=
  if bytes.length < s.config.snapHeaderBytes then .error .truncatedData
  else if leValue (bytes.take s.config.snapHeaderBytes) ≠ s.config.snapVersion.toNat then
    .error .formatVersion
  else do
    let bs := bytes.drop s.config.snapHeaderBytes
    let (payload, bs) ← takeRecord clockId bs
    let clock ← orMalformed (readClock payload)
    let (payload, bs) ← takeRecord busId bs
    let bus ← orMalformed (readBus payload)
    let (payload, bs) ← takeRecord cpuId bs
    let cpu ← orMalformed (readCpu payload)
    let (chips, bs) ← readChips s.config s.config.chipOrder s.chips bs
    let (payload, bs) ← takeRecord schedId bs
    let sched ← orMalformed (readSched payload)
    if bs.isEmpty && candidateOk s.config bus sched.2 then
      .ok { s with
        clock := clock
        bus := bus
        cpu := cpu
        chips := chips
        cycle := 0
        sched :=
          { run := if s.sched.fault.isSome then .paused else s.sched.run
            stalls := sched.2
            irqRes := sched.1.1
            nmiRes := sched.1.2
            hostReq := HostReq.clear
            fault := none } }
    else .error .malformedData

/-- `load(bytes)` (R830, R840): refused in Stopped and while running without a fault; an error leaves
the machine as it was, since no new state is given (R834). -/
def load (s : State) (bytes : List Byte) : Except SnapshotError State :=
  match s.sched.run, s.sched.fault with
  | .stopped, _ => .error .invalidState
  | .running, none => .error .invalidState
  | _, _ => parseSnapshot s bytes

end Sys2Proof.Machine
end

