-- ==== Sys2Proof/Safety.lean ====
section
/-! DEFINITION. The terms the statements are written in: when a machine is a production machine, what an
access or an instruction leaves alone and what it stores, the forms of each class of instruction, and
the invariant of the machine. -/

namespace Sys2Proof.Machine

/-! ## Conditions on a state -/

/-- A production machine: no bus access can fault (R163). -/
def State.production (s : State) : Prop := s.config.validateBus = false

/-- Every store's bytes are in canonical form. -/
def State.canonical (s : State) : Prop := ∀ st ∈ s.bus.stores, st.bytes.wf = true

/-- Whether the machine has a store of this id. -/
def State.hasStore (s : State) (id : Nat) : Bool := s.bus.stores.any fun st => st.id == id

/-- The address selects a byte of a RAM or ROM store, not a chip window and not nothing (R154). -/
def State.plain (s : State) (a : Word) : Prop := targetStored (s.target a) = true

/-- The address selects a byte of a RAM store the machine has (R154). -/
def State.writable (s : State) (a : Word) : Prop :=
  ∃ id off, s.target a = .store .ram id off ∧ s.hasStore id = true

/-- No mapping leads to a chip (R56). -/
def State.noWindows (s : State) : Prop := ∀ m ∈ s.bus.maps, m.kind ≠ .ioWindow

/-! ## What bus accesses leave alone -/

/-- What the bus accesses and register changes of one CPU step leave alone: the configuration, the clock,
the mapping table, the mapping events, and the scheduler's run state, requests, resolved levels and
fault; and, where no mapping leads to a chip, also every chip, the bank-switch queue, the stall queue
and the output sinks. -/
structure BusOnly (s t : State) : Prop where
  config : t.config = s.config
  clock : t.clock = s.clock
  maps : t.bus.maps = s.bus.maps
  external : t.bus.pendingExternal = s.bus.pendingExternal
  run : t.sched.run = s.sched.run
  hostReq : t.sched.hostReq = s.sched.hostReq
  irqRes : t.sched.irqRes = s.sched.irqRes
  nmiRes : t.sched.nmiRes = s.sched.nmiRes
  fault : t.sched.fault = s.sched.fault
  quiet : s.noWindows → t.chips = s.chips ∧ t.bus.pendingSwitches = s.bus.pendingSwitches
    ∧ t.sched.stalls = s.sched.stalls ∧ t.sink = s.sink

/-- What reading leaves alone: all of `BusOnly`, the CPU and every byte of every store. -/
structure ReadFrame (s t : State) : Prop where
  others : BusOnly s t
  cpu : t.cpu = s.cpu
  stores : t.bus.stores = s.bus.stores

/-- The byte at offset `off` of store `id` after the writes `ws`, oldest first, each to an address: a write
changes a byte where its address selects that byte of a RAM store (R154, R161), and nothing else. -/
def State.byteAfter (s : State) (ws : List (Word × Byte)) (id off : Nat) : Byte :=
  ws.foldl (fun old w =>
    if s.target w.1 = .store .ram id off ∧ s.hasStore id = true then w.2 else old) (s.storeByte id off)

/-- What the writes `ws` change: exactly those bytes of the stores, and nothing of `BusOnly`. The set of
stores and their canonical form stay. -/
structure WriteFrame (s : State) (ws : List (Word × Byte)) (t : State) : Prop where
  others : BusOnly s t
  bytes : ∀ id off, t.storeByte id off = s.byteAfter ws id off
  ids : ∀ id, t.hasStore id = s.hasStore id
  canonical : t.canonical

/-- A read of address `a` after the writes `ws` gives `v`: the store byte of a RAM or ROM address, and
`OPEN_BUS_VALUE` of an unmapped one (R160); a chip window gives what its chip answers. -/
def State.ReadsAfter (s : State) (ws : List (Word × Byte)) (a : Word) (v : Byte) : Prop :=
  match s.target a with
  | .store _ id off => v = s.byteAfter ws id off
  | .chip _ _ => True
  | .unmapped => v = s.config.openBusValue

/-! ## What a part of a step did -/

/-- The record of a CPU read `n` cycles after `s`. -/
def readRec (s : State) (n : Nat) (kind : AccessKind) (a : Word) (v : Byte) : AccessRecord :=
  ⟨.read, a, v, kind, s.clock + s.cycle + n, .cpu⟩

/-- The record of a CPU write `n` cycles after `s`. -/
def writeRec (s : State) (n : Nat) (kind : AccessKind) (a : Word) (v : Byte) : AccessRecord :=
  ⟨.write, a, v, kind, s.clock + s.cycle + n, .cpu⟩

/-- A part that only read: `recs` are its accesses in order, one cycle each. -/
structure RanReads (s : State) (recs : List AccessRecord) (t : State) : Prop where
  frame : ReadFrame s t
  cycle : t.cycle = s.cycle + recs.length
  history : t.history = s.history ++ recs

/-- A part that stored `ws`, oldest first, made the accesses `recs` in order, one cycle each, and left the
CPU `c`. -/
structure Ran (s : State) (ws : List (Word × Byte)) (recs : List AccessRecord) (c : Cpu) (t : State) :
    Prop where
  frame : WriteFrame s ws t
  cycle : t.cycle = s.cycle + recs.length
  history : t.history = s.history ++ recs
  cpu : t.cpu = c

/-! ## Forms of instructions -/

/-- One row of an Encoding line: the opcode, the instruction, its base cycles, and whether a page crossing
adds one (`+p`). -/
def Encodes (i : Instr) (opcode : Byte) (cycles : Nat) (plusP : Bool) : Prop :=
  i.opcode = opcode ∧ i.baseCycles = cycles ∧ i.pagePenalty = plusP

/-- A form of a read-class instruction: its opcode, the instruction, the template that delivers its operand,
its base cycles and its page penalty. -/
structure ReadForm where
  opcode : Byte
  instr : Instr
  operand : M Byte
  cycles : Nat
  plusP : Bool

/-- A read form completes from `s`: the template delivers a byte `m` and changes nothing of `ReadFrame`, and
the instruction's next state is the template's with the CPU `after m`. -/
def ReadForm.completes (f : ReadForm) (after : Byte → Cpu → Cpu) (s : State) : Prop :=
  Encodes f.instr f.opcode f.cycles f.plusP ∧
  ∃ m s1, f.operand s = .ok m s1 ∧ ReadFrame s s1
    ∧ exec f.instr s = .next { s1 with cpu := after m s.cpu }

/-- A form of a write-class or read-modify-write instruction: its opcode, the instruction, the template that
gives its effective address, and its base cycles. -/
structure StoreForm where
  opcode : Byte
  instr : Instr
  address : M Word
  cycles : Nat

/-- A write form completes from `s`: the template gives an address `a` after the accesses `recs`, and the
instruction then stores `v` there and nowhere else; the CPU keeps every field. -/
def StoreForm.stores (f : StoreForm) (v : Byte) (s : State) : Prop :=
  Encodes f.instr f.opcode f.cycles false ∧
  ∃ a s1 recs t, f.address s = .ok a s1 ∧ RanReads s recs s1 ∧ exec f.instr s = .next t
    ∧ Ran s [(a, v)] (recs ++ [writeRec s recs.length .data a v]) s.cpu t

/-- A read-modify-write form completes from `s`: the template gives an address `a` after the accesses `recs`,
the byte `m` read there is written back, then `new m` is written, nothing else is stored, and the CPU
is `after m` (R330). -/
def StoreForm.modifies (f : StoreForm) (new : Byte → Cpu → Byte) (after : Byte → Cpu → Cpu)
    (s : State) : Prop :=
  Encodes f.instr f.opcode f.cycles false ∧
  ∃ a s1 recs m t, f.address s = .ok a s1 ∧ RanReads s recs s1 ∧ exec f.instr s = .next t
    ∧ s.ReadsAfter [] a m
    ∧ Ran s [(a, m), (a, new m s.cpu)]
        (recs ++ [readRec s recs.length .data a m, writeRec s (recs.length + 1) .dummy a m,
          writeRec s (recs.length + 2) .data a (new m s.cpu)]) (after m s.cpu) t

/-- An implied instruction completes from `s`: one dummy read at PC, which PC does not pass, and the CPU is
`after` (R311). -/
def ImpliedCompletes (i : Instr) (opcode : Byte) (after : Cpu → Cpu) (s : State) : Prop :=
  Encodes i opcode 2 false ∧
  ∃ s1 v, RanReads s [readRec s 0 .dummy s.cpu.pc v] s1 ∧ s.ReadsAfter [] s.cpu.pc v
    ∧ exec i s = .next { s1 with cpu := after s.cpu }

/-! ## Cycle counts -/

/-- Whether adding the index `r` to the low byte `lo` of a base address crosses a page (R256, R258). -/
def crosses (lo r : Byte) : Bool := decide (0x100 ≤ lo.toNat + r.toNat)

/-- Whether a branch is taken (R521 to R528). -/
def Cpu.takes (c : Cpu) : Mnemonic → Bool
  | .bpl => !c.flagN
  | .bmi => c.flagN
  | .bvc => !c.flagV
  | .bvs => c.flagV
  | .bcc => !c.flagC
  | .bcs => c.flagC
  | .bne => !c.flagZ
  | .beq => c.flagZ
  | _ => false

/-- The cycles an instruction takes beyond its base count (R345): one for a page crossing of an instruction
that has the penalty, and one or two for a taken branch. The state is that after the instruction's
bytes were fetched. -/
def extraCycles (i : Instr) (s : State) : Nat :=
  match i.mode, i.operandBytes with
  | .absx, [ll, _] => if i.pagePenalty && crosses ll s.cpu.x then 1 else 0
  | .absy, [ll, _] => if i.pagePenalty && crosses ll s.cpu.y then 1 else 0
  | .indy, [b1] => if i.pagePenalty && crosses (s.peek (zext16 b1)) s.cpu.y then 1 else 0
  | .rel, [off] =>
    if s.cpu.takes i.mnemonic then
      (if hiByte (s.cpu.pc + sext16 off) = hiByte s.cpu.pc then 1 else 2)
    else 0
  | _, _ => 0

/-! ## A step that executes an instruction -/

/-- The records of fetching the bytes `bs` from address `a` at cycle `t` on, the first as the opcode. -/
def fetchRecords (kind : AccessKind) (t : Nat) : Word → List Byte → List AccessRecord
  | _, [] => []
  | a, b :: bs => ⟨.read, a, b, kind, t, .cpu⟩ :: fetchRecords .operand (t + 1) (a + 1#16) bs

/-- The state in which the instruction whose fetched bytes are `bs` is executed: PC past them, one cycle
for each, and their records. -/
def State.fetched (s : State) (bs : List Byte) : State :=
  { s with
    cpu := { s.cpu with pc := s.cpu.pc + BitVec.ofNat 16 bs.length }
    cycle := s.cycle + bs.length
    history := s.history ++ fetchRecords .opcode (s.clock + s.cycle) s.cpu.pc bs }

/-- The bytes of the instruction at PC that the step fetches before executing it (R306, R310); of JSR's
operand only the low byte (R535). -/
def State.instructionBytes (s : State) : List Byte :=
  [s.peek s.cpu.pc, s.peek (s.cpu.pc + 1#16), s.peek (s.cpu.pc + 2#16)].take
    (1 + fetchedOperands (s.peek s.cpu.pc))

/-- The step from `s` executes the instruction `i`: the loop runs and its boundary leaves it running, no stall
is active, the step-start selection finds an instruction (R302), and the bytes at PC, which are bytes of
stores, decode to `i`. -/
structure Executes (s : State) (i : Instr) : Prop where
  noFault : s.sched.fault = none
  before : s.sched.run = .running
  running : (boundary s).sched.run = .running
  noStall : (takeStall s.clock (boundary s).sched.stalls).1 = none
  kind : stepKind (boundary s).cpu = .instruction
  plain : ∀ j < 3, (boundary s).plain ((boundary s).cpu.pc + BitVec.ofNat 16 j)
  decodes : ∃ rest, decode [(boundary s).peek (boundary s).cpu.pc,
    (boundary s).peek ((boundary s).cpu.pc + 1#16), (boundary s).peek ((boundary s).cpu.pc + 2#16)]
      = .ok (i, rest)

/-- The state in which that instruction is executed: the boundary's, with the elapsed stalls dropped and the
instruction's bytes fetched. -/
def State.atExecution (s : State) : State :=
  (startRound (boundary s)).fetched (boundary s).instructionBytes

/-! ## The ticks of an iteration -/

/-- Every chip ticks once, in chip index order and by the same count, the `n` cycles from `start` on, with
the bus granted to the chip `holder` alone, and `s` becomes `t` (R701, R724, R725, R733). -/
def TicksOnce (holder : Option Nat) (start n : Nat) (s t : State) : Prop :=
  ∃ after : Nat → State, after 0 = s ∧ after s.config.chips.length = t
    ∧ ∀ i < s.config.chips.length,
      tickChip i (decide (holder = some i)) start n (after i) = .ok () (after (i + 1))

/-! ## The invariant -/

/-- What the configuration check makes sure of (R955): the parameters and the widths of the numbers, sound
and disjoint tables, and a bit-cell denominator that is not 0. -/
structure ConfigOk (c : MachineConfig) : Prop where
  parameters : parametersOk c = true
  sound : ∀ table ∈ checkedTables c c.powerOnMaps, ∀ m ∈ table, mappingOk c m = true
  disjoint : ∀ table ∈ checkedTables c c.powerOnMaps, mapsDisjoint table = true
  cells : ∀ sp ∈ c.chips, 0 < (specBitcell sp).2

/-- The invariant of the machine: its stores are the configured ones and hold canonical bytes below their
sizes (R58), the mapping table is sound and disjoint (R56, R57), the clock fits 64 bits (R52), what the
queues hold is well-formed (R59, R78, R180, R731), and every chip is of its configured kind with its fields
in range (R710, R713, R915). -/
structure State.Inv (s : State) : Prop where
  config : ConfigOk s.config
  canonical : s.canonical
  sized : ∀ st ∈ s.bus.stores, ∀ c ∈ st.bytes, c.1 < st.size
  stores : storesMatch s.config s.bus.stores = true
  sound : ∀ m ∈ s.bus.maps, mappingOk s.config m = true
  disjoint : mapsDisjoint s.bus.maps = true
  clock : s.clock < 2 ^ 64
  switches : ∀ b ∈ s.bus.pendingSwitches,
    b.effectiveCycle < 2 ^ 64 ∧ b.table < s.config.bankTables.length
  events : ∀ e ∈ s.bus.pendingExternal, mapEventOk s.config e = true
  stalls : ∀ st ∈ s.sched.stalls, st.fromCycle < 2 ^ 64 ∧ 0 < st.duration ∧ st.duration < 2 ^ 32
    ∧ st.chip < s.chips.length
  count : s.chips.length = s.config.chips.length
  chips : ∀ (i : Nat) c, s.chips[i]? = some c → chipInRange (specOf s.config i) c = true

/-! ## Snapshots -/

/-- The lengths of a state's lists fit the counts of the snapshot format: 16 bits for the items of a table
or a queue (R811 to R814, R824), 32 for the bytes of a payload (R807). No rule bounds these lists, and the
format can hold no longer ones (log entry 18). -/
structure State.FitsSnapshot (s : State) : Prop where
  maps : s.bus.maps.length < 2 ^ 16
  switches : s.bus.pendingSwitches.length < 2 ^ 16
  events : s.bus.pendingExternal.length < 2 ^ 16
  stalls : s.sched.stalls.length < 2 ^ 16
  bus : (saveBus s.bus).length < 2 ^ 32
  chips : ∀ (i : Nat) c, s.chips[i]? = some c → (saveChip i c).length < 2 ^ 32

/-- The state a load of `s`'s snapshot puts in place of `t`, a machine of the same configuration: every field
of `s` but the run state, the requests and the fault (R830, R850); the observer's records stay. -/
def State.restored (t s : State) : State :=
  { t with
    clock := s.clock
    bus := s.bus
    cpu := s.cpu
    chips := s.chips
    cycle := 0
    sched := { s.sched with
      run := if t.sched.fault.isSome then .paused else t.sched.run
      hostReq := HostReq.clear
      fault := none } }

end Sys2Proof.Machine
end

