-- ==== Sys2Proof/Certificates/Slice0/Obligations.lean ====
section
/-! DEFINITION. The statements for the provers. Each docstring says what the statement claims and which
rules of spec/ it rests on; the terms are those of Safety.lean. Instructions are executed from the state
right after their bytes were fetched (40_cpu_step.md R306), so PC is the address after them. -/

open Sys2Proof Sys2Proof.Machine

/-- For every instruction, with every operand at every value, the encoder writes as many bytes as the addressing mode has, and decoding them, whatever follows, gives the instruction back and the bytes that follow (R250, R251, R268). -/
def Obligations.DecodeInvertsEncode : Prop :=
  ∀ (i : Instr) (rest : List Byte),
    (encode i).length = i.mode.length ∧ decode (encode i ++ rest) = .ok (i, rest)

/-- Whatever the decoder answers, the bytes it read are exactly the encoding of the instruction it answers, and that instruction has an addressing mode the prose gives its mnemonic (R250, R251). -/
def Obligations.EncodeInvertsDecode : Prop :=
  ∀ (bs rest : List Byte) (i : Instr), decode bs = .ok (i, rest) →
    encode i ++ rest = bs ∧ i.wellFormed = true

/-- Every one of the 256 opcode bytes, followed by any two bytes, decodes to an instruction of that opcode (R265); a byte sequence is refused only where it is shorter than the mode of its opcode asks, or empty (R268). -/
def Obligations.EveryOpcodeDecodes : Prop :=
  (∀ op b1 b2 : Byte, ∃ i rest, decode [op, b1, b2] = .ok (i, rest) ∧ i.opcode = op) ∧
    decode [] = .error .noOpcode ∧
    (∀ (op : Byte) (bs : List Byte), (∃ e, decode (op :: bs) = .error e) ↔
      bs.length + 1 < (rowOf op).mode.length)

/-- A few byte sequences written out from the opcode map (R263) and the formats (R251), one of each family, decode to the instruction the map gives them. -/
def Obligations.SampleWordsDecode : Prop :=
  decode [0xA9#8, 0x80#8] = .ok (.ldaImm 0x80#8, []) ∧
    decode [0x9D#8, 0x10#8, 0x20#8] = .ok (.staAbsx 0x2010#16, []) ∧
    decode [0x71#8, 0x44#8, 0xEA#8] = .ok (.adcIndy 0x44#8, [0xEA#8]) ∧
    decode [0x36#8, 0x07#8] = .ok (.rolZpx 0x07#8, []) ∧
    decode [0x6C#8, 0xFF#8, 0x30#8] = .ok (.jmpInd 0x30FF#16, []) ∧
    decode [0x20#8, 0x34#8, 0x12#8] = .ok (.jsrAbs 0x1234#16, []) ∧
    decode [0xD0#8, 0xFE#8] = .ok (.bneRel 0xFE#8, []) ∧
    decode [0x08#8] = .ok (.php, []) ∧
    decode [0x9B#8, 0xFF#8, 0x1F#8] = .ok (.tasAbsy 0x1FFF#16, []) ∧
    decode [0xF2#8] = .ok (.jamF2, [])

/-- Where the step from a state executes the instruction its bytes at PC decode to, the step is that instruction executed after its bytes were fetched, followed by the end of the CPU round: the clock advances by the cycles of the step, the chips tick, the lines are resolved (R306, R720). -/
def Obligations.StepRunsDecodedInstruction : Prop :=
  ∀ (s : State) (i : Instr), Executes s i →
    step s = match exec i s.atExecution with
      | .next t => .next (finishRound t)
      | .fault f => .fault f
      | .refused r => .refused r

/-- At the start of a CPU round: a pending reset runs the reset sequence, before all else; a jammed CPU idles; a pending NMI is taken whatever I is; an asserted IRQ is taken only with I = 0; and else an instruction is fetched (R302, R871). -/
def Obligations.StepStartSelection : Prop :=
  ∀ s : State,
    (s.cpu.resetPending = true → cpuRound s = .next (finishRound (settle resetSequence s))) ∧
    (s.cpu.resetPending = false → s.cpu.jammed = true →
      cpuRound s = .next (finishRound (settle jammedIdle s))) ∧
    (s.cpu.resetPending = false → s.cpu.jammed = false → s.cpu.nmiPending = true →
      cpuRound s = .next (finishRound (settle (interruptEntry .nmi) s))) ∧
    (s.cpu.resetPending = false → s.cpu.jammed = false → s.cpu.nmiPending = false →
      s.cpu.irqIn = true → s.cpu.flagI = false →
      cpuRound s = .next (finishRound (settle (interruptEntry .irq) s))) ∧
    (s.cpu.resetPending = false → s.cpu.jammed = false → s.cpu.nmiPending = false →
      (s.cpu.irqIn = false ∨ s.cpu.flagI = true) → stepKind s.cpu = .instruction)

/-- For each addressing mode of a write or read-modify-write instruction, in a production machine: the address the template gives, and the accesses it makes before the data access, in order and one cycle each. The pointer modes are stated for pointer bytes in stores, read at wrapped zero-page addresses. -/
def Obligations.EffectiveAddresses : Prop :=
  ∀ (s : State) (b1 : Byte) (w : Word), s.production →
    addrZp b1 s = .ok (zext16 b1) s ∧ addrAbs w s = .ok w s ∧
    (∃ d t, addrZpx b1 s = .ok (zext16 (b1 + s.cpu.x)) t
      ∧ RanReads s [readRec s 0 .dummy (zext16 b1) d] t) ∧
    (∃ d t, addrZpy b1 s = .ok (zext16 (b1 + s.cpu.y)) t
      ∧ RanReads s [readRec s 0 .dummy (zext16 b1) d] t) ∧
    (∃ d t, addrAbsx w s = .ok (w + zext16 s.cpu.x) t
      ∧ RanReads s [readRec s 0 .dummy (mkWord (hiByte w) (loByte w + s.cpu.x)) d] t) ∧
    (∃ d t, addrAbsy w s = .ok (w + zext16 s.cpu.y) t
      ∧ RanReads s [readRec s 0 .dummy (mkWord (hiByte w) (loByte w + s.cpu.y)) d] t) ∧
    (∀ q, q = b1 + s.cpu.x → s.plain (zext16 q) → s.plain (zext16 (q + 1#8)) →
      ∃ d t, addrIndx b1 s = .ok (mkWord (s.peek (zext16 (q + 1#8))) (s.peek (zext16 q))) t
        ∧ RanReads s [readRec s 0 .dummy (zext16 b1) d,
            readRec s 1 .pointer (zext16 q) (s.peek (zext16 q)),
            readRec s 2 .pointer (zext16 (q + 1#8)) (s.peek (zext16 (q + 1#8)))] t) ∧
    (∀ p, p = mkWord (s.peek (zext16 (b1 + 1#8))) (s.peek (zext16 b1)) →
      s.plain (zext16 b1) → s.plain (zext16 (b1 + 1#8)) →
      ∃ d t, addrIndy b1 s = .ok (p + zext16 s.cpu.y) t
        ∧ RanReads s [readRec s 0 .pointer (zext16 b1) (s.peek (zext16 b1)),
            readRec s 1 .pointer (zext16 (b1 + 1#8)) (s.peek (zext16 (b1 + 1#8))),
            readRec s 2 .dummy (mkWord (hiByte p) (loByte p + s.cpu.y)) d] t)

/-- For each addressing mode of a read-class instruction, where the bytes read are bytes of stores: the template delivers the byte at the effective address. An indexed read that crosses no page makes one data read; one that crosses reads the unfixed address first and then the effective address, one cycle more. -/
def Obligations.ReadOperands : Prop :=
  ∀ (s : State) (b1 : Byte) (w : Word), s.production →
    readImm b1 s = .ok b1 s ∧
    (s.plain (zext16 b1) → ∃ t, readZp b1 s = .ok (s.peek (zext16 b1)) t
      ∧ RanReads s [readRec s 0 .data (zext16 b1) (s.peek (zext16 b1))] t) ∧
    (s.plain w → ∃ t, readAbs w s = .ok (s.peek w) t
      ∧ RanReads s [readRec s 0 .data w (s.peek w)] t) ∧
    (∀ r f, (r, f) ∈ [(s.cpu.x, readZpx b1), (s.cpu.y, readZpy b1)] → s.plain (zext16 (b1 + r)) →
      ∃ d t, f s = .ok (s.peek (zext16 (b1 + r))) t
        ∧ RanReads s [readRec s 0 .dummy (zext16 b1) d,
            readRec s 1 .data (zext16 (b1 + r)) (s.peek (zext16 (b1 + r)))] t) ∧
    (∀ r f, (r, f) ∈ [(s.cpu.x, readAbsx w), (s.cpu.y, readAbsy w)] →
      ∀ u ea, u = mkWord (hiByte w) (loByte w + r) → ea = w + zext16 r → s.plain u → s.plain ea →
      ∃ t, f s = .ok (s.peek ea) t ∧ RanReads s (if crosses (loByte w) r
        then [readRec s 0 .data u (s.peek u), readRec s 1 .data ea (s.peek ea)]
        else [readRec s 0 .data ea (s.peek ea)]) t) ∧
    (∀ q ea, q = b1 + s.cpu.x → ea = mkWord (s.peek (zext16 (q + 1#8))) (s.peek (zext16 q)) →
      s.plain (zext16 q) → s.plain (zext16 (q + 1#8)) → s.plain ea →
      ∃ d t, readIndx b1 s = .ok (s.peek ea) t
        ∧ RanReads s [readRec s 0 .dummy (zext16 b1) d,
            readRec s 1 .pointer (zext16 q) (s.peek (zext16 q)),
            readRec s 2 .pointer (zext16 (q + 1#8)) (s.peek (zext16 (q + 1#8))),
            readRec s 3 .data ea (s.peek ea)] t) ∧
    (∀ p u ea, p = mkWord (s.peek (zext16 (b1 + 1#8))) (s.peek (zext16 b1)) →
      u = mkWord (hiByte p) (loByte p + s.cpu.y) → ea = p + zext16 s.cpu.y →
      s.plain (zext16 b1) → s.plain (zext16 (b1 + 1#8)) → s.plain u → s.plain ea →
      ∃ t, readIndy b1 s = .ok (s.peek ea) t
        ∧ RanReads s ([readRec s 0 .pointer (zext16 b1) (s.peek (zext16 b1)),
            readRec s 1 .pointer (zext16 (b1 + 1#8)) (s.peek (zext16 (b1 + 1#8)))]
          ++ if crosses (loByte p) s.cpu.y
            then [readRec s 2 .data u (s.peek u), readRec s 3 .data ea (s.peek ea)]
            else [readRec s 2 .data ea (s.peek ea)]) t)

/-- In a production machine every form of LDA, LDX and LDY completes: its register takes the operand byte, N its bit 7, Z whether it is 0, and nothing else of the CPU, no byte of any store and nothing else of ReadFrame changes. The opcodes, modes, base cycles and page penalties are those of the Encoding lines (R401, R402, R403). -/
def Obligations.LoadsComplete : Prop :=
  ∀ (s : State) (b1 : Byte) (w : Word), s.production →
    (∀ f ∈ ([⟨0xA1#8, .ldaIndx b1, readIndx b1, 6, false⟩, ⟨0xA5#8, .ldaZp b1, readZp b1, 3, false⟩,
       ⟨0xA9#8, .ldaImm b1, readImm b1, 2, false⟩, ⟨0xAD#8, .ldaAbs w, readAbs w, 4, false⟩,
       ⟨0xB1#8, .ldaIndy b1, readIndy b1, 5, true⟩, ⟨0xB5#8, .ldaZpx b1, readZpx b1, 4, false⟩,
       ⟨0xB9#8, .ldaAbsy w, readAbsy w, 4, true⟩, ⟨0xBD#8, .ldaAbsx w, readAbsx w, 4, true⟩] : List ReadForm),
      f.completes (fun m c => { c with a := m, flagN := (m).getLsbD 7, flagZ := decide (m = 0#8) }) s) ∧
    (∀ f ∈ ([⟨0xA2#8, .ldxImm b1, readImm b1, 2, false⟩, ⟨0xA6#8, .ldxZp b1, readZp b1, 3, false⟩,
       ⟨0xAE#8, .ldxAbs w, readAbs w, 4, false⟩, ⟨0xB6#8, .ldxZpy b1, readZpy b1, 4, false⟩,
       ⟨0xBE#8, .ldxAbsy w, readAbsy w, 4, true⟩] : List ReadForm),
      f.completes (fun m c => { c with x := m, flagN := (m).getLsbD 7, flagZ := decide (m = 0#8) }) s) ∧
    (∀ f ∈ ([⟨0xA0#8, .ldyImm b1, readImm b1, 2, false⟩, ⟨0xA4#8, .ldyZp b1, readZp b1, 3, false⟩,
       ⟨0xAC#8, .ldyAbs w, readAbs w, 4, false⟩, ⟨0xB4#8, .ldyZpx b1, readZpx b1, 4, false⟩,
       ⟨0xBC#8, .ldyAbsx w, readAbsx w, 4, true⟩] : List ReadForm),
      f.completes (fun m c => { c with y := m, flagN := (m).getLsbD 7, flagZ := decide (m = 0#8) }) s)

/-- In a production machine every form of STA, STX and STY completes: it stores its register at the address the template of its mode gives, in one write after the template accesses, changes no other byte of any store, and leaves every register and flag alone (R404, R405, R406). -/
def Obligations.StoresComplete : Prop :=
  ∀ (s : State) (b1 : Byte) (w : Word), s.production → s.canonical →
    (∀ f ∈ ([⟨0x81#8, .staIndx b1, addrIndx b1, 6⟩, ⟨0x85#8, .staZp b1, addrZp b1, 3⟩,
       ⟨0x8D#8, .staAbs w, addrAbs w, 4⟩, ⟨0x91#8, .staIndy b1, addrIndy b1, 6⟩,
       ⟨0x95#8, .staZpx b1, addrZpx b1, 4⟩, ⟨0x99#8, .staAbsy w, addrAbsy w, 5⟩,
       ⟨0x9D#8, .staAbsx w, addrAbsx w, 5⟩] : List StoreForm),
      f.stores (s.cpu.a) s) ∧
    (∀ f ∈ ([⟨0x86#8, .stxZp b1, addrZp b1, 3⟩, ⟨0x8E#8, .stxAbs w, addrAbs w, 4⟩,
       ⟨0x96#8, .stxZpy b1, addrZpy b1, 4⟩] : List StoreForm),
      f.stores (s.cpu.x) s) ∧
    (∀ f ∈ ([⟨0x84#8, .styZp b1, addrZp b1, 3⟩, ⟨0x8C#8, .styAbs w, addrAbs w, 4⟩,
       ⟨0x94#8, .styZpx b1, addrZpx b1, 4⟩] : List StoreForm),
      f.stores (s.cpu.y) s)

/-- In a production machine TAX, TAY, TXA, TYA, TSX and TXS complete with one dummy read at PC: the target takes the source, N and Z describe it except for TXS, which changes no flag; nothing else of the CPU and no byte of any store changes (R407 to R412). -/
def Obligations.TransfersComplete : Prop :=
  ∀ s : State, s.production →
    ImpliedCompletes .tax 0xAA#8 (fun c => { c with x := c.a, flagN := (c.a).getLsbD 7, flagZ := decide (c.a = 0#8) }) s ∧
    ImpliedCompletes .tay 0xA8#8 (fun c => { c with y := c.a, flagN := (c.a).getLsbD 7, flagZ := decide (c.a = 0#8) }) s ∧
    ImpliedCompletes .txa 0x8A#8 (fun c => { c with a := c.x, flagN := (c.x).getLsbD 7, flagZ := decide (c.x = 0#8) }) s ∧
    ImpliedCompletes .tya 0x98#8 (fun c => { c with a := c.y, flagN := (c.y).getLsbD 7, flagZ := decide (c.y = 0#8) }) s ∧
    ImpliedCompletes .tsx 0xBA#8 (fun c => { c with x := c.s, flagN := (c.s).getLsbD 7, flagZ := decide (c.s = 0#8) }) s ∧
    ImpliedCompletes .txs 0x9A#8 (fun c => { c with s := c.x }) s

/-- In a production machine every form of ADC and SBC completes with AddCore(M), respectively SubCore(M), of the operand byte, and changes no byte of any store and nothing else of ReadFrame (R453, R454). What AddCore and SubCore compute is stated by BinaryArithmetic and DecimalArithmetic. -/
def Obligations.AddSubtractComplete : Prop :=
  ∀ (s : State) (b1 : Byte) (w : Word), s.production →
    (∀ f ∈ ([⟨0x61#8, .adcIndx b1, readIndx b1, 6, false⟩, ⟨0x65#8, .adcZp b1, readZp b1, 3, false⟩,
       ⟨0x69#8, .adcImm b1, readImm b1, 2, false⟩, ⟨0x6D#8, .adcAbs w, readAbs w, 4, false⟩,
       ⟨0x71#8, .adcIndy b1, readIndy b1, 5, true⟩, ⟨0x75#8, .adcZpx b1, readZpx b1, 4, false⟩,
       ⟨0x79#8, .adcAbsy w, readAbsy w, 4, true⟩, ⟨0x7D#8, .adcAbsx w, readAbsx w, 4, true⟩] : List ReadForm),
      f.completes (fun m c => c.addCore m) s) ∧
    (∀ f ∈ ([⟨0xE1#8, .sbcIndx b1, readIndx b1, 6, false⟩, ⟨0xE5#8, .sbcZp b1, readZp b1, 3, false⟩,
       ⟨0xE9#8, .sbcImm b1, readImm b1, 2, false⟩, ⟨0xED#8, .sbcAbs w, readAbs w, 4, false⟩,
       ⟨0xF1#8, .sbcIndy b1, readIndy b1, 5, true⟩, ⟨0xF5#8, .sbcZpx b1, readZpx b1, 4, false⟩,
       ⟨0xF9#8, .sbcAbsy w, readAbsy w, 4, true⟩, ⟨0xFD#8, .sbcAbsx w, readAbsx w, 4, true⟩] : List ReadForm),
      f.completes (fun m c => c.subCore m) s)

/-- In a production machine every form of AND, ORA and EOR completes with A the bitwise result and N and Z describing it; BIT leaves A alone, sets Z from A and M, and N and V from bits 7 and 6 of the operand byte; nothing else of the CPU and no byte of any store changes (R455 to R458). -/
def Obligations.LogicComplete : Prop :=
  ∀ (s : State) (b1 : Byte) (w : Word), s.production →
    (∀ f ∈ ([⟨0x21#8, .andIndx b1, readIndx b1, 6, false⟩, ⟨0x25#8, .andZp b1, readZp b1, 3, false⟩,
       ⟨0x29#8, .andImm b1, readImm b1, 2, false⟩, ⟨0x2D#8, .andAbs w, readAbs w, 4, false⟩,
       ⟨0x31#8, .andIndy b1, readIndy b1, 5, true⟩, ⟨0x35#8, .andZpx b1, readZpx b1, 4, false⟩,
       ⟨0x39#8, .andAbsy w, readAbsy w, 4, true⟩, ⟨0x3D#8, .andAbsx w, readAbsx w, 4, true⟩] : List ReadForm),
      f.completes (fun m c => { c with a := c.a &&& m, flagN := (c.a &&& m).getLsbD 7, flagZ := decide (c.a &&& m = 0#8) }) s) ∧
    (∀ f ∈ ([⟨0x01#8, .oraIndx b1, readIndx b1, 6, false⟩, ⟨0x05#8, .oraZp b1, readZp b1, 3, false⟩,
       ⟨0x09#8, .oraImm b1, readImm b1, 2, false⟩, ⟨0x0D#8, .oraAbs w, readAbs w, 4, false⟩,
       ⟨0x11#8, .oraIndy b1, readIndy b1, 5, true⟩, ⟨0x15#8, .oraZpx b1, readZpx b1, 4, false⟩,
       ⟨0x19#8, .oraAbsy w, readAbsy w, 4, true⟩, ⟨0x1D#8, .oraAbsx w, readAbsx w, 4, true⟩] : List ReadForm),
      f.completes (fun m c => { c with a := c.a ||| m, flagN := (c.a ||| m).getLsbD 7, flagZ := decide (c.a ||| m = 0#8) }) s) ∧
    (∀ f ∈ ([⟨0x41#8, .eorIndx b1, readIndx b1, 6, false⟩, ⟨0x45#8, .eorZp b1, readZp b1, 3, false⟩,
       ⟨0x49#8, .eorImm b1, readImm b1, 2, false⟩, ⟨0x4D#8, .eorAbs w, readAbs w, 4, false⟩,
       ⟨0x51#8, .eorIndy b1, readIndy b1, 5, true⟩, ⟨0x55#8, .eorZpx b1, readZpx b1, 4, false⟩,
       ⟨0x59#8, .eorAbsy w, readAbsy w, 4, true⟩, ⟨0x5D#8, .eorAbsx w, readAbsx w, 4, true⟩] : List ReadForm),
      f.completes (fun m c => { c with a := c.a ^^^ m, flagN := (c.a ^^^ m).getLsbD 7, flagZ := decide (c.a ^^^ m = 0#8) }) s) ∧
    (∀ f ∈ ([⟨0x24#8, .bitZp b1, readZp b1, 3, false⟩, ⟨0x2C#8, .bitAbs w, readAbs w, 4, false⟩] : List ReadForm),
      f.completes (fun m c => { c with flagZ := decide (c.a &&& m = 0#8), flagN := m.getLsbD 7, flagV := m.getLsbD 6 }) s)

/-- In a production machine every form of CMP, CPX and CPY completes: C says whether the register is at least the operand byte, Z whether they are equal, N is bit 7 of their difference; no register changes, D has no effect, and no byte of any store changes (R459 to R461 with R452). -/
def Obligations.ComparesComplete : Prop :=
  ∀ (s : State) (b1 : Byte) (w : Word), s.production →
    (∀ f ∈ ([⟨0xC1#8, .cmpIndx b1, readIndx b1, 6, false⟩, ⟨0xC5#8, .cmpZp b1, readZp b1, 3, false⟩,
       ⟨0xC9#8, .cmpImm b1, readImm b1, 2, false⟩, ⟨0xCD#8, .cmpAbs w, readAbs w, 4, false⟩,
       ⟨0xD1#8, .cmpIndy b1, readIndy b1, 5, true⟩, ⟨0xD5#8, .cmpZpx b1, readZpx b1, 4, false⟩,
       ⟨0xD9#8, .cmpAbsy w, readAbsy w, 4, true⟩, ⟨0xDD#8, .cmpAbsx w, readAbsx w, 4, true⟩] : List ReadForm),
      f.completes (fun m c => { c with flagC := decide (m.toNat ≤ c.a.toNat), flagN := (c.a - m).getLsbD 7, flagZ := decide (c.a = m) }) s) ∧
    (∀ f ∈ ([⟨0xE0#8, .cpxImm b1, readImm b1, 2, false⟩, ⟨0xE4#8, .cpxZp b1, readZp b1, 3, false⟩,
       ⟨0xEC#8, .cpxAbs w, readAbs w, 4, false⟩] : List ReadForm),
      f.completes (fun m c => { c with flagC := decide (m.toNat ≤ c.x.toNat), flagN := (c.x - m).getLsbD 7, flagZ := decide (c.x = m) }) s) ∧
    (∀ f ∈ ([⟨0xC0#8, .cpyImm b1, readImm b1, 2, false⟩, ⟨0xC4#8, .cpyZp b1, readZp b1, 3, false⟩,
       ⟨0xCC#8, .cpyAbs w, readAbs w, 4, false⟩] : List ReadForm),
      f.completes (fun m c => { c with flagC := decide (m.toNat ≤ c.y.toNat), flagN := (c.y - m).getLsbD 7, flagZ := decide (c.y = m) }) s)

/-- In a production machine every form of INC and DEC completes: it reads its operand, writes it back, writes it plus or minus 1 modulo 256, and N and Z describe the new byte; INX, INY, DEX and DEY do the same to their register. No other register, flag or byte of a store changes (R462 to R467). -/
def Obligations.IncrementsComplete : Prop :=
  ∀ (s : State) (b1 : Byte) (w : Word), s.production → s.canonical →
    (∀ f ∈ ([⟨0xE6#8, .incZp b1, addrZp b1, 5⟩, ⟨0xEE#8, .incAbs w, addrAbs w, 6⟩,
       ⟨0xF6#8, .incZpx b1, addrZpx b1, 6⟩, ⟨0xFE#8, .incAbsx w, addrAbsx w, 7⟩] : List StoreForm),
      f.modifies (fun m _ => m + 1#8) (fun m c => { c with flagN := (m + 1#8).getLsbD 7, flagZ := decide (m + 1#8 = 0#8) }) s) ∧
    (∀ f ∈ ([⟨0xC6#8, .decZp b1, addrZp b1, 5⟩, ⟨0xCE#8, .decAbs w, addrAbs w, 6⟩,
       ⟨0xD6#8, .decZpx b1, addrZpx b1, 6⟩, ⟨0xDE#8, .decAbsx w, addrAbsx w, 7⟩] : List StoreForm),
      f.modifies (fun m _ => m - 1#8) (fun m c => { c with flagN := (m - 1#8).getLsbD 7, flagZ := decide (m - 1#8 = 0#8) }) s) ∧
    ImpliedCompletes .inx 0xE8#8 (fun c => { c with x := c.x + 1#8, flagN := (c.x + 1#8).getLsbD 7, flagZ := decide (c.x + 1#8 = 0#8) }) s ∧
    ImpliedCompletes .iny 0xC8#8 (fun c => { c with y := c.y + 1#8, flagN := (c.y + 1#8).getLsbD 7, flagZ := decide (c.y + 1#8 = 0#8) }) s ∧
    ImpliedCompletes .dex 0xCA#8 (fun c => { c with x := c.x - 1#8, flagN := (c.x - 1#8).getLsbD 7, flagZ := decide (c.x - 1#8 = 0#8) }) s ∧
    ImpliedCompletes .dey 0x88#8 (fun c => { c with y := c.y - 1#8, flagN := (c.y - 1#8).getLsbD 7, flagZ := decide (c.y - 1#8 = 0#8) }) s

/-- In a production machine every memory form of ASL, LSR, ROL and ROR completes with the double write of its result, and the accumulator form puts the result in A: the bit shifted out becomes C, ROL and ROR take the old C in, and N and Z describe the result; nothing else of the CPU and no other byte of a store changes (R468 to R471). -/
def Obligations.ShiftsComplete : Prop :=
  ∀ (s : State) (b1 : Byte) (w : Word), s.production → s.canonical →
    (∀ f ∈ ([⟨0x06#8, .aslZp b1, addrZp b1, 5⟩, ⟨0x0E#8, .aslAbs w, addrAbs w, 6⟩,
       ⟨0x16#8, .aslZpx b1, addrZpx b1, 6⟩, ⟨0x1E#8, .aslAbsx w, addrAbsx w, 7⟩] : List StoreForm),
      f.modifies (fun m _ => m <<< 1) (fun m c => { c with flagC := m.getLsbD 7, flagN := (m <<< 1).getLsbD 7, flagZ := decide ((m <<< 1) = 0#8) }) s) ∧
    ImpliedCompletes .aslAcc 0x0A#8 (fun c => { c with a := c.a <<< 1, flagC := c.a.getLsbD 7, flagN := (c.a <<< 1).getLsbD 7, flagZ := decide ((c.a <<< 1) = 0#8) }) s ∧
    (∀ f ∈ ([⟨0x46#8, .lsrZp b1, addrZp b1, 5⟩, ⟨0x4E#8, .lsrAbs w, addrAbs w, 6⟩,
       ⟨0x56#8, .lsrZpx b1, addrZpx b1, 6⟩, ⟨0x5E#8, .lsrAbsx w, addrAbsx w, 7⟩] : List StoreForm),
      f.modifies (fun m _ => m >>> 1) (fun m c => { c with flagC := m.getLsbD 0, flagN := (m >>> 1).getLsbD 7, flagZ := decide ((m >>> 1) = 0#8) }) s) ∧
    ImpliedCompletes .lsrAcc 0x4A#8 (fun c => { c with a := c.a >>> 1, flagC := c.a.getLsbD 0, flagN := (c.a >>> 1).getLsbD 7, flagZ := decide ((c.a >>> 1) = 0#8) }) s ∧
    (∀ f ∈ ([⟨0x26#8, .rolZp b1, addrZp b1, 5⟩, ⟨0x2E#8, .rolAbs w, addrAbs w, 6⟩,
       ⟨0x36#8, .rolZpx b1, addrZpx b1, 6⟩, ⟨0x3E#8, .rolAbsx w, addrAbsx w, 7⟩] : List StoreForm),
      f.modifies (fun m c => (m <<< 1) ||| (if c.flagC then 0x01#8 else 0#8)) (fun m c => { c with flagC := m.getLsbD 7, flagN := ((m <<< 1) ||| (if c.flagC then 0x01#8 else 0#8)).getLsbD 7, flagZ := decide (((m <<< 1) ||| (if c.flagC then 0x01#8 else 0#8)) = 0#8) }) s) ∧
    ImpliedCompletes .rolAcc 0x2A#8 (fun c => { c with a := (c.a <<< 1) ||| (if c.flagC then 0x01#8 else 0#8), flagC := c.a.getLsbD 7, flagN := ((c.a <<< 1) ||| (if c.flagC then 0x01#8 else 0#8)).getLsbD 7, flagZ := decide (((c.a <<< 1) ||| (if c.flagC then 0x01#8 else 0#8)) = 0#8) }) s ∧
    (∀ f ∈ ([⟨0x66#8, .rorZp b1, addrZp b1, 5⟩, ⟨0x6E#8, .rorAbs w, addrAbs w, 6⟩,
       ⟨0x76#8, .rorZpx b1, addrZpx b1, 6⟩, ⟨0x7E#8, .rorAbsx w, addrAbsx w, 7⟩] : List StoreForm),
      f.modifies (fun m c => (m >>> 1) ||| (if c.flagC then 0x80#8 else 0#8)) (fun m c => { c with flagC := m.getLsbD 0, flagN := ((m >>> 1) ||| (if c.flagC then 0x80#8 else 0#8)).getLsbD 7, flagZ := decide (((m >>> 1) ||| (if c.flagC then 0x80#8 else 0#8)) = 0#8) }) s) ∧
    ImpliedCompletes .rorAcc 0x6A#8 (fun c => { c with a := (c.a >>> 1) ||| (if c.flagC then 0x80#8 else 0#8), flagC := c.a.getLsbD 0, flagN := ((c.a >>> 1) ||| (if c.flagC then 0x80#8 else 0#8)).getLsbD 7, flagZ := decide (((c.a >>> 1) ||| (if c.flagC then 0x80#8 else 0#8)) = 0#8) }) s

/-- In a production machine each branch completes: not taken it changes nothing more; taken it sets PC to the address after the branch plus the signed offset modulo 65536, after one dummy read at that address, and one more at the target with the old high byte where the target lies in another page. No flag, other register or byte of a store changes (R520 to R528). -/
def Obligations.BranchesComplete : Prop :=
  ∀ (s : State) (off : Byte) (target : Word), s.production → s.canonical →
    target = s.cpu.pc + off.signExtend 16 →
    ∀ f ∈ ([(0x10#8, .bplRel off, !s.cpu.flagN), (0x30#8, .bmiRel off, s.cpu.flagN),
       (0x50#8, .bvcRel off, !s.cpu.flagV), (0x70#8, .bvsRel off, s.cpu.flagV),
       (0x90#8, .bccRel off, !s.cpu.flagC), (0xB0#8, .bcsRel off, s.cpu.flagC),
       (0xD0#8, .bneRel off, !s.cpu.flagZ), (0xF0#8, .beqRel off, s.cpu.flagZ)] : List (Byte × Instr × Bool)),
      Encodes f.2.1 f.1 2 false ∧
      (f.2.2 = false → exec f.2.1 s = .next s) ∧
      (f.2.2 = true → hiByte target = hiByte s.cpu.pc → ∃ d t, exec f.2.1 s = .next t
        ∧ Ran s [] [readRec s 0 .dummy s.cpu.pc d] { s.cpu with pc := target } t) ∧
      (f.2.2 = true → hiByte target ≠ hiByte s.cpu.pc → ∃ d e t, exec f.2.1 s = .next t
        ∧ Ran s [] [readRec s 0 .dummy s.cpu.pc d,
            readRec s 1 .dummy (mkWord (hiByte s.cpu.pc) (loByte target)) e]
          { s.cpu with pc := target } t)

/-- JMP absolute completes with PC at its operand and nothing else changed (R530, whose operand is fetched before). In a production machine JMP indirect completes: the low byte of PC is read at the pointer and the high byte at the next address of the same page, and nothing else changes (R531). -/
def Obligations.JumpsComplete : Prop :=
  ∀ (s : State) (w : Word), s.production → s.canonical →
    (Encodes (.jmpAbs w) 0x4C#8 3 false
      ∧ exec (.jmpAbs w) s = .next { s with cpu := { s.cpu with pc := w } }) ∧
    (Encodes (.jmpInd w) 0x6C#8 5 false ∧
      ∃ lo hi t, exec (.jmpInd w) s = .next t ∧ s.ReadsAfter [] w lo
        ∧ s.ReadsAfter [] (mkWord (hiByte w) (loByte w + 1#8)) hi
        ∧ Ran s [] [readRec s 0 .pointer w lo,
            readRec s 1 .pointer (mkWord (hiByte w) (loByte w + 1#8)) hi]
          { s.cpu with pc := mkWord hi lo } t)

/-- In a production machine JSR and RTS complete. JSR, whose PC addresses its last byte, makes a dummy stack read, pushes the high and then the low byte of PC, and only then reads the high byte of the target at PC, so that it sees what the pushes wrote. RTS pulls the low and then the high byte and returns to that word plus 1. S moves by 2 and nothing else changes but the two stack bytes of JSR (R535, R536). -/
def Obligations.SubroutinesComplete : Prop :=
  ∀ (s : State) (w : Word), s.production → s.canonical →
    (∀ ws, ws = [(stackAddr s.cpu.s, hiByte s.cpu.pc), (stackAddr (s.cpu.s - 1#8), loByte s.cpu.pc)] →
      Encodes (.jsrAbs w) 0x20#8 6 false ∧
      ∃ d hh t, exec (.jsrAbs w) s = .next t ∧ s.ReadsAfter ws s.cpu.pc hh
        ∧ Ran s ws [readRec s 0 .dummy (stackAddr s.cpu.s) d,
            writeRec s 1 .stack (stackAddr s.cpu.s) (hiByte s.cpu.pc),
            writeRec s 2 .stack (stackAddr (s.cpu.s - 1#8)) (loByte s.cpu.pc),
            readRec s 3 .operand s.cpu.pc hh]
          { s.cpu with s := s.cpu.s - 2#8, pc := mkWord hh (loByte w) } t) ∧
    (Encodes .rts 0x60#8 6 false ∧
      ∃ d e f lo hi t, exec .rts s = .next t ∧ s.ReadsAfter [] (stackAddr (s.cpu.s + 1#8)) lo
        ∧ s.ReadsAfter [] (stackAddr (s.cpu.s + 2#8)) hi
        ∧ Ran s [] [readRec s 0 .dummy s.cpu.pc d, readRec s 1 .dummy (stackAddr s.cpu.s) e,
            readRec s 2 .stack (stackAddr (s.cpu.s + 1#8)) lo,
            readRec s 3 .stack (stackAddr (s.cpu.s + 2#8)) hi, readRec s 4 .dummy (mkWord hi lo) f]
          { s.cpu with s := s.cpu.s + 2#8, pc := mkWord hi lo + 1#16 } t)

/-- In a production machine BRK completes by taking the software interrupt: it skips the padding byte, pushes the address after it high byte first and then P with B = 1, sets I and loads PC from 0xFFFE. RTI completes by pulling the six flags, ignoring bits 5 and 4, and then PC, low byte first, with no 1 added. S moves by 3 and nothing else changes but the three stack bytes of BRK (R537, R540). -/
def Obligations.BreakAndReturnComplete : Prop :=
  ∀ s : State, s.production → s.canonical →
    (∀ ws, ws = [(stackAddr s.cpu.s, hiByte (s.cpu.pc + 1#16)), (stackAddr (s.cpu.s - 1#8), loByte (s.cpu.pc + 1#16)),
        (stackAddr (s.cpu.s - 2#8), s.cpu.pByte true)] →
      Encodes .brk 0x00#8 7 false ∧
      ∃ d lo hi t, exec .brk s = .next t ∧ s.ReadsAfter ws 0xFFFE#16 lo ∧ s.ReadsAfter ws 0xFFFF#16 hi
        ∧ Ran s ws [readRec s 0 .operand s.cpu.pc d,
            writeRec s 1 .stack (stackAddr s.cpu.s) (hiByte (s.cpu.pc + 1#16)),
            writeRec s 2 .stack (stackAddr (s.cpu.s - 1#8)) (loByte (s.cpu.pc + 1#16)),
            writeRec s 3 .stack (stackAddr (s.cpu.s - 2#8)) (s.cpu.pByte true),
            readRec s 4 .vector 0xFFFE#16 lo, readRec s 5 .vector 0xFFFF#16 hi]
          { s.cpu with s := s.cpu.s - 3#8, flagI := true, pc := mkWord hi lo } t) ∧
    (Encodes .rti 0x40#8 6 false ∧
      ∃ d e p lo hi t, exec .rti s = .next t ∧ s.ReadsAfter [] (stackAddr (s.cpu.s + 1#8)) p
        ∧ s.ReadsAfter [] (stackAddr (s.cpu.s + 2#8)) lo
        ∧ s.ReadsAfter [] (stackAddr (s.cpu.s + 3#8)) hi
        ∧ Ran s [] [readRec s 0 .dummy s.cpu.pc d, readRec s 1 .dummy (stackAddr s.cpu.s) e,
            readRec s 2 .stack (stackAddr (s.cpu.s + 1#8)) p,
            readRec s 3 .stack (stackAddr (s.cpu.s + 2#8)) lo,
            readRec s 4 .stack (stackAddr (s.cpu.s + 3#8)) hi]
          { s.cpu with
            s := s.cpu.s + 3#8
            pc := mkWord hi lo
            flagN := p.getLsbD 7
            flagV := p.getLsbD 6
            flagD := p.getLsbD 3
            flagI := p.getLsbD 2
            flagZ := p.getLsbD 1
            flagC := p.getLsbD 0 } t)

/-- In a production machine PHA and PHP complete: one dummy read at PC, A or P with B = 1 written at the stack address, S down by 1. PLA and PLP complete: two dummy reads, S up by 1, and the byte there goes to A with N and Z, or to the six flags with bits 5 and 4 ignored. No other register, flag or byte of a store changes (R570 to R573). -/
def Obligations.StackComplete : Prop :=
  ∀ s : State, s.production → s.canonical →
    (Encodes .pha 0x48#8 3 false ∧
      ∃ d t, exec .pha s = .next t
        ∧ Ran s [(stackAddr s.cpu.s, s.cpu.a)] [readRec s 0 .dummy s.cpu.pc d,
            writeRec s 1 .stack (stackAddr s.cpu.s) (s.cpu.a)]
          { s.cpu with s := s.cpu.s - 1#8 } t) ∧
    (Encodes .php 0x08#8 3 false ∧
      ∃ d t, exec .php s = .next t
        ∧ Ran s [(stackAddr s.cpu.s, s.cpu.pByte true)] [readRec s 0 .dummy s.cpu.pc d,
            writeRec s 1 .stack (stackAddr s.cpu.s) (s.cpu.pByte true)]
          { s.cpu with s := s.cpu.s - 1#8 } t) ∧
    (Encodes .pla 0x68#8 4 false ∧
      ∃ d e v t, exec .pla s = .next t ∧ s.ReadsAfter [] (stackAddr (s.cpu.s + 1#8)) v
        ∧ Ran s [] [readRec s 0 .dummy s.cpu.pc d, readRec s 1 .dummy (stackAddr s.cpu.s) e,
            readRec s 2 .stack (stackAddr (s.cpu.s + 1#8)) v]
          { s.cpu with
            s := s.cpu.s + 1#8
            a := v
            flagN := v.getLsbD 7
            flagZ := decide (v = 0#8) } t) ∧
    (Encodes .plp 0x28#8 4 false ∧
      ∃ d e v t, exec .plp s = .next t ∧ s.ReadsAfter [] (stackAddr (s.cpu.s + 1#8)) v
        ∧ Ran s [] [readRec s 0 .dummy s.cpu.pc d, readRec s 1 .dummy (stackAddr s.cpu.s) e,
            readRec s 2 .stack (stackAddr (s.cpu.s + 1#8)) v]
          { s.cpu with
            s := s.cpu.s + 1#8
            flagN := v.getLsbD 7
            flagV := v.getLsbD 6
            flagD := v.getLsbD 3
            flagI := v.getLsbD 2
            flagZ := v.getLsbD 1
            flagC := v.getLsbD 0 } t)

/-- In a production machine CLC, SEC, CLI, SEI, CLD, SED, CLV and NOP complete with one dummy read at PC: each flag instruction writes the one flag named, NOP writes nothing, and nothing else of the CPU and no byte of any store changes (R574 to R581; PC has already passed the opcode). -/
def Obligations.FlagsAndNopComplete : Prop :=
  ∀ s : State, s.production →
    ImpliedCompletes .clc 0x18#8 (fun c => { c with flagC := false }) s ∧
    ImpliedCompletes .sec 0x38#8 (fun c => { c with flagC := true }) s ∧
    ImpliedCompletes .cli 0x58#8 (fun c => { c with flagI := false }) s ∧
    ImpliedCompletes .sei 0x78#8 (fun c => { c with flagI := true }) s ∧
    ImpliedCompletes .cld 0xD8#8 (fun c => { c with flagD := false }) s ∧
    ImpliedCompletes .sed 0xF8#8 (fun c => { c with flagD := true }) s ∧
    ImpliedCompletes .clv 0xB8#8 (fun c => { c with flagV := false }) s ∧
    ImpliedCompletes .nop 0xEA#8 (fun c => c) s

/-- In a production machine every form of SLO, RLA, SRE, RRA, DCP and ISC completes with the double write of f(M), and then combines f(M) with A: or, and, exclusive or, AddCore with the carry the rotate left, a comparison, SubCore. No other register, flag or byte of a store changes (R621 to R626). -/
def Obligations.CombinedModifiesComplete : Prop :=
  ∀ (s : State) (b1 : Byte) (w : Word), s.production → s.canonical →
    (∀ f ∈ ([⟨0x03#8, .sloIndx b1, addrIndx b1, 8⟩, ⟨0x07#8, .sloZp b1, addrZp b1, 5⟩,
       ⟨0x0F#8, .sloAbs w, addrAbs w, 6⟩, ⟨0x13#8, .sloIndy b1, addrIndy b1, 8⟩,
       ⟨0x17#8, .sloZpx b1, addrZpx b1, 6⟩, ⟨0x1B#8, .sloAbsy w, addrAbsy w, 7⟩,
       ⟨0x1F#8, .sloAbsx w, addrAbsx w, 7⟩] : List StoreForm),
      f.modifies (fun m _ => m <<< 1) (fun m c => { c with flagC := m.getLsbD 7, a := c.a ||| (m <<< 1), flagN := (c.a ||| (m <<< 1)).getLsbD 7, flagZ := decide ((c.a ||| (m <<< 1)) = 0#8) }) s) ∧
    (∀ f ∈ ([⟨0x23#8, .rlaIndx b1, addrIndx b1, 8⟩, ⟨0x27#8, .rlaZp b1, addrZp b1, 5⟩,
       ⟨0x2F#8, .rlaAbs w, addrAbs w, 6⟩, ⟨0x33#8, .rlaIndy b1, addrIndy b1, 8⟩,
       ⟨0x37#8, .rlaZpx b1, addrZpx b1, 6⟩, ⟨0x3B#8, .rlaAbsy w, addrAbsy w, 7⟩,
       ⟨0x3F#8, .rlaAbsx w, addrAbsx w, 7⟩] : List StoreForm),
      f.modifies (fun m c => (m <<< 1) ||| (if c.flagC then 0x01#8 else 0#8)) (fun m c => { c with flagC := m.getLsbD 7, a := c.a &&& ((m <<< 1) ||| (if c.flagC then 0x01#8 else 0#8)), flagN := (c.a &&& ((m <<< 1) ||| (if c.flagC then 0x01#8 else 0#8))).getLsbD 7, flagZ := decide ((c.a &&& ((m <<< 1) ||| (if c.flagC then 0x01#8 else 0#8))) = 0#8) }) s) ∧
    (∀ f ∈ ([⟨0x43#8, .sreIndx b1, addrIndx b1, 8⟩, ⟨0x47#8, .sreZp b1, addrZp b1, 5⟩,
       ⟨0x4F#8, .sreAbs w, addrAbs w, 6⟩, ⟨0x53#8, .sreIndy b1, addrIndy b1, 8⟩,
       ⟨0x57#8, .sreZpx b1, addrZpx b1, 6⟩, ⟨0x5B#8, .sreAbsy w, addrAbsy w, 7⟩,
       ⟨0x5F#8, .sreAbsx w, addrAbsx w, 7⟩] : List StoreForm),
      f.modifies (fun m _ => m >>> 1) (fun m c => { c with flagC := m.getLsbD 0, a := c.a ^^^ (m >>> 1), flagN := (c.a ^^^ (m >>> 1)).getLsbD 7, flagZ := decide ((c.a ^^^ (m >>> 1)) = 0#8) }) s) ∧
    (∀ f ∈ ([⟨0x63#8, .rraIndx b1, addrIndx b1, 8⟩, ⟨0x67#8, .rraZp b1, addrZp b1, 5⟩,
       ⟨0x6F#8, .rraAbs w, addrAbs w, 6⟩, ⟨0x73#8, .rraIndy b1, addrIndy b1, 8⟩,
       ⟨0x77#8, .rraZpx b1, addrZpx b1, 6⟩, ⟨0x7B#8, .rraAbsy w, addrAbsy w, 7⟩,
       ⟨0x7F#8, .rraAbsx w, addrAbsx w, 7⟩] : List StoreForm),
      f.modifies (fun m c => (m >>> 1) ||| (if c.flagC then 0x80#8 else 0#8)) (fun m c => { c with flagC := m.getLsbD 0 }.addCore
        ((m >>> 1) ||| (if c.flagC then 0x80#8 else 0#8))) s) ∧
    (∀ f ∈ ([⟨0xC3#8, .dcpIndx b1, addrIndx b1, 8⟩, ⟨0xC7#8, .dcpZp b1, addrZp b1, 5⟩,
       ⟨0xCF#8, .dcpAbs w, addrAbs w, 6⟩, ⟨0xD3#8, .dcpIndy b1, addrIndy b1, 8⟩,
       ⟨0xD7#8, .dcpZpx b1, addrZpx b1, 6⟩, ⟨0xDB#8, .dcpAbsy w, addrAbsy w, 7⟩,
       ⟨0xDF#8, .dcpAbsx w, addrAbsx w, 7⟩] : List StoreForm),
      f.modifies (fun m _ => m - 1#8) (fun m c => { c with
        flagC := decide ((m - 1#8).toNat ≤ c.a.toNat)
        flagN := (c.a - (m - 1#8)).getLsbD 7
        flagZ := decide (c.a = m - 1#8) }) s) ∧
    (∀ f ∈ ([⟨0xE3#8, .iscIndx b1, addrIndx b1, 8⟩, ⟨0xE7#8, .iscZp b1, addrZp b1, 5⟩,
       ⟨0xEF#8, .iscAbs w, addrAbs w, 6⟩, ⟨0xF3#8, .iscIndy b1, addrIndy b1, 8⟩,
       ⟨0xF7#8, .iscZpx b1, addrZpx b1, 6⟩, ⟨0xFB#8, .iscAbsy w, addrAbsy w, 7⟩,
       ⟨0xFF#8, .iscAbsx w, addrAbsx w, 7⟩] : List StoreForm),
      f.modifies (fun m _ => m + 1#8) (fun m c => c.subCore (m + 1#8)) s)

/-- In a production machine every form of SAX stores A and X at its effective address and changes no register or flag; LAX loads the operand byte into A and X; LAS puts the operand and S into A, X and S; N and Z describe the loaded byte; nothing else of the CPU and no other byte of a store changes (R627, R628, R630). -/
def Obligations.CombinedLoadsAndStoresComplete : Prop :=
  ∀ (s : State) (b1 : Byte) (w : Word), s.production → s.canonical →
    (∀ f ∈ ([⟨0x83#8, .saxIndx b1, addrIndx b1, 6⟩, ⟨0x87#8, .saxZp b1, addrZp b1, 3⟩,
       ⟨0x8F#8, .saxAbs w, addrAbs w, 4⟩, ⟨0x97#8, .saxZpy b1, addrZpy b1, 4⟩] : List StoreForm),
      f.stores (s.cpu.a &&& s.cpu.x) s) ∧
    (∀ f ∈ ([⟨0xA3#8, .laxIndx b1, readIndx b1, 6, false⟩, ⟨0xA7#8, .laxZp b1, readZp b1, 3, false⟩,
       ⟨0xAF#8, .laxAbs w, readAbs w, 4, false⟩, ⟨0xB3#8, .laxIndy b1, readIndy b1, 5, true⟩,
       ⟨0xB7#8, .laxZpy b1, readZpy b1, 4, false⟩, ⟨0xBF#8, .laxAbsy w, readAbsy w, 4, true⟩] : List ReadForm),
      f.completes (fun m c => { c with a := m, x := m, flagN := m.getLsbD 7, flagZ := decide (m = 0#8) }) s) ∧
    (∀ f ∈ ([⟨0xBB#8, .lasAbsy w, readAbsy w, 4, true⟩] : List ReadForm),
      f.completes (fun m c => { c with
        a := m &&& c.s
        x := m &&& c.s
        s := m &&& c.s
        flagN := (m &&& c.s).getLsbD 7
        flagZ := decide (m &&& c.s = 0#8) }) s)

/-- In a production machine ANC, ALR, SBX, USBC, ANE, LXA and ARR complete with the operation of their rules on the immediate byte; ANE and LXA use the constants of the configuration, whatever they are; ARR follows its binary rule for D = 0 and its NMOS decimal rule for D = 1; nothing else of the CPU and no byte of any store changes (R633 to R641). -/
def Obligations.ImmediateCombinationsComplete : Prop :=
  ∀ (s : State) (b1 : Byte), s.production →
    (∀ f ∈ ([⟨0x0B#8, .ancImm0B b1, readImm b1, 2, false⟩, ⟨0x2B#8, .ancImm2B b1, readImm b1, 2, false⟩] : List ReadForm),
      f.completes (fun m c => { c with a := c.a &&& m, flagN := (c.a &&& m).getLsbD 7, flagZ := decide (c.a &&& m = 0#8), flagC := (c.a &&& m).getLsbD 7 }) s) ∧
    (∀ f ∈ ([⟨0x4B#8, .alrImm b1, readImm b1, 2, false⟩] : List ReadForm),
      f.completes (fun m c => { c with a := (c.a &&& m) >>> 1, flagN := false, flagZ := decide ((c.a &&& m) >>> 1 = 0#8), flagC := (c.a &&& m).getLsbD 0 }) s) ∧
    (∀ f ∈ ([⟨0xCB#8, .sbxImm b1, readImm b1, 2, false⟩] : List ReadForm),
      f.completes (fun m c => { c with x := (c.a &&& c.x) - m, flagN := ((c.a &&& c.x) - m).getLsbD 7, flagZ := decide (c.a &&& c.x = m), flagC := decide (m.toNat ≤ (c.a &&& c.x).toNat) }) s) ∧
    (∀ f ∈ ([⟨0xEB#8, .usbcImm b1, readImm b1, 2, false⟩] : List ReadForm),
      f.completes (fun m c => c.subCore m) s) ∧
    (∀ f ∈ ([⟨0x8B#8, .aneImm b1, readImm b1, 2, false⟩] : List ReadForm),
      f.completes (fun m c => { c with
        a := (c.a ||| s.config.aneMagic) &&& c.x &&& m
        flagN := ((c.a ||| s.config.aneMagic) &&& c.x &&& m).getLsbD 7
        flagZ := decide ((c.a ||| s.config.aneMagic) &&& c.x &&& m = 0#8) }) s) ∧
    (∀ f ∈ ([⟨0xAB#8, .lxaImm b1, readImm b1, 2, false⟩] : List ReadForm),
      f.completes (fun m c => { c with
        a := (c.a ||| s.config.lxaMagic) &&& m
        x := (c.a ||| s.config.lxaMagic) &&& m
        flagN := ((c.a ||| s.config.lxaMagic) &&& m).getLsbD 7
        flagZ := decide ((c.a ||| s.config.lxaMagic) &&& m = 0#8) }) s) ∧
    (s.cpu.flagD = false → (∀ f ∈ ([⟨0x6B#8, .arrImm b1, readImm b1, 2, false⟩] : List ReadForm),
      f.completes (fun m c => { c with
        a := ((if c.flagC then 0x80#8 else 0#8) ||| ((c.a &&& m) >>> 1))
        flagN := c.flagC
        flagZ := decide (((if c.flagC then 0x80#8 else 0#8) ||| ((c.a &&& m) >>> 1)) = 0#8)
        flagC := ((if c.flagC then 0x80#8 else 0#8) ||| ((c.a &&& m) >>> 1)).getLsbD 6
        flagV := (((if c.flagC then 0x80#8 else 0#8) ||| ((c.a &&& m) >>> 1)).getLsbD 6 != ((if c.flagC then 0x80#8 else 0#8) ||| ((c.a &&& m) >>> 1)).getLsbD 5) }) s)) ∧
    (s.cpu.flagD = true → (∀ f ∈ ([⟨0x6B#8, .arrImm b1, readImm b1, 2, false⟩] : List ReadForm),
      f.completes (fun m c =>
        let t := c.a &&& m
        let r := (if c.flagC then 0x80#8 else 0#8) ||| (t >>> 1)
        let low := decide (0x05 < (t &&& 0x0F#8).toNat + (t &&& 0x01#8).toNat)
        let r1 := if low then (r &&& 0xF0#8) ||| ((r + 0x06#8) &&& 0x0F#8) else r
        let high := decide (0x50 < (t &&& 0xF0#8).toNat + (t &&& 0x10#8).toNat)
        { c with
          flagN := c.flagC
          flagZ := decide (r = 0#8)
          flagV := (r ^^^ t).getLsbD 6
          flagC := high
          a := if high then (r1 &&& 0x0F#8) ||| ((r1 + 0x60#8) &&& 0xF0#8) else r1 }) s))

/-- In a production machine SHA, SHX, SHY and TAS complete: after the dummy read at the unfixed address they store the register and (H + 1), H the high byte of the base address, at the effective address, or, on a page crossing with SHX_PAGE_QUIRK, at the effective address with its high byte replaced by the stored value. TAS first sets S to A and X. No other register, flag or byte of a store changes (R644 to R648). -/
def Obligations.HighStoresComplete : Prop :=
  (∀ (s : State) (w : Word), s.production → s.canonical →
      ∀ f ∈ ([(0x9F#8, .shaAbsy w, s.cpu.y, s.cpu.a &&& s.cpu.x, s.cpu),
          (0x9E#8, .shxAbsy w, s.cpu.y, s.cpu.x, s.cpu), (0x9C#8, .shyAbsx w, s.cpu.x, s.cpu.y, s.cpu),
          (0x9B#8, .tasAbsy w, s.cpu.y, s.cpu.a &&& s.cpu.x, { s.cpu with s := s.cpu.a &&& s.cpu.x })]
          : List (Byte × Instr × Byte × Byte × Cpu)),
        ∀ v a, v = f.2.2.2.1 &&& (hiByte w + 1#8) →
          a = (if crosses (loByte w) f.2.2.1 && s.config.shxPageQuirk
            then mkWord v (loByte (w + zext16 f.2.2.1)) else w + zext16 f.2.2.1) →
          Encodes f.2.1 f.1 5 false ∧
          ∃ d t, exec f.2.1 s = .next t
            ∧ Ran s [(a, v)] [readRec s 0 .dummy (mkWord (hiByte w) (loByte w + f.2.2.1)) d,
                writeRec s 1 .data a v] f.2.2.2.2 t) ∧
    (∀ (s : State) (b1 : Byte), s.production → s.canonical → Encodes (.shaIndy b1) 0x93#8 6 false ∧
      ∃ lo hi d t, s.ReadsAfter [] (zext16 b1) lo ∧ s.ReadsAfter [] (zext16 (b1 + 1#8)) hi
        ∧ exec (.shaIndy b1) s = .next t
        ∧ ∀ v a, v = s.cpu.a &&& s.cpu.x &&& (hi + 1#8) →
          a = (if crosses lo s.cpu.y && s.config.shxPageQuirk
            then mkWord v (loByte (mkWord hi lo + zext16 s.cpu.y)) else mkWord hi lo + zext16 s.cpu.y) →
          Ran s [(a, v)] [readRec s 0 .pointer (zext16 b1) lo, readRec s 1 .pointer (zext16 (b1 + 1#8)) hi,
            readRec s 2 .dummy (mkWord hi (lo + s.cpu.y)) d, writeRec s 3 .data a v] s.cpu t)

/-- In a production machine each of the 27 undocumented NOPs completes: it performs the read template of its mode, or the dummy read of an implied instruction, and changes no register, no flag and no byte of any store (R650). -/
def Obligations.UndocumentedNopsComplete : Prop :=
  ∀ (s : State) (b1 : Byte) (w : Word), s.production →
    (∀ f ∈ ([⟨0x04#8, .nopZp04 b1, readZp b1, 3, false⟩, ⟨0x0C#8, .nopAbs w, readAbs w, 4, false⟩,
       ⟨0x14#8, .nopZpx14 b1, readZpx b1, 4, false⟩, ⟨0x1C#8, .nopAbsx1C w, readAbsx w, 4, true⟩,
       ⟨0x34#8, .nopZpx34 b1, readZpx b1, 4, false⟩, ⟨0x3C#8, .nopAbsx3C w, readAbsx w, 4, true⟩,
       ⟨0x44#8, .nopZp44 b1, readZp b1, 3, false⟩, ⟨0x54#8, .nopZpx54 b1, readZpx b1, 4, false⟩,
       ⟨0x5C#8, .nopAbsx5C w, readAbsx w, 4, true⟩, ⟨0x64#8, .nopZp64 b1, readZp b1, 3, false⟩,
       ⟨0x74#8, .nopZpx74 b1, readZpx b1, 4, false⟩, ⟨0x7C#8, .nopAbsx7C w, readAbsx w, 4, true⟩,
       ⟨0x80#8, .nopImm80 b1, readImm b1, 2, false⟩, ⟨0x82#8, .nopImm82 b1, readImm b1, 2, false⟩,
       ⟨0x89#8, .nopImm89 b1, readImm b1, 2, false⟩, ⟨0xC2#8, .nopImmC2 b1, readImm b1, 2, false⟩,
       ⟨0xD4#8, .nopZpxD4 b1, readZpx b1, 4, false⟩, ⟨0xDC#8, .nopAbsxDC w, readAbsx w, 4, true⟩,
       ⟨0xE2#8, .nopImmE2 b1, readImm b1, 2, false⟩, ⟨0xF4#8, .nopZpxF4 b1, readZpx b1, 4, false⟩,
       ⟨0xFC#8, .nopAbsxFC w, readAbsx w, 4, true⟩] : List ReadForm),
      f.completes (fun _ c => c) s) ∧
    (∀ f ∈ ([(.nop1A, 0x1A#8), (.nop3A, 0x3A#8), (.nop5A, 0x5A#8), (.nop7A, 0x7A#8), (.nopDA, 0xDA#8),
       (.nopFA, 0xFA#8)] : List (Instr × Byte)),
      ImpliedCompletes f.1 f.2 (fun c => c) s)

/-- In a production machine each of the twelve JAM opcodes completes: one dummy read at PC, which PC does not pass, and the CPU is jammed; nothing else of the CPU and no byte of any store changes (R660; what a jammed CPU does is stated by JammedUntilReset). -/
def Obligations.JamsComplete : Prop :=
  ∀ s : State, s.production →
    (∀ f ∈ ([(.jam02, 0x02#8), (.jam12, 0x12#8), (.jam22, 0x22#8), (.jam32, 0x32#8), (.jam42, 0x42#8),
       (.jam52, 0x52#8), (.jam62, 0x62#8), (.jam72, 0x72#8), (.jam92, 0x92#8), (.jamB2, 0xB2#8),
       (.jamD2, 0xD2#8), (.jamF2, 0xF2#8)] : List (Instr × Byte)),
      ImpliedCompletes f.1 f.2 (fun c => { c with jammed := true }) s)

/-- In a production machine with page zero in stores, every instruction makes exactly its base count of bus accesses, plus one for a page crossing of an instruction that has the penalty, plus one or two for a taken branch; the fetches before its execution are counted in (R303, R345). -/
def Obligations.CycleCounts : Prop :=
  ∀ (i : Instr) (s t : State), s.production → s.canonical →
    (∀ a : Word, hiByte a = 0#8 → s.plain a) → exec i s = .next t →
    t.cycle + (1 + fetchedOperands i.opcode) = s.cycle + i.baseCycles + extraCycles i s

/-- For every instruction: where the step executes it, in a production machine with page zero in stores and room on the clock, the step answers a next state without a fault whose clock is later by n, the base count of the instruction plus its page-crossing and branch cycles; and with the chip order of R724 the step is the instruction executed, then the clock moved by n, then every chip ticked once, in chip index order, for the same n cycles and without the grant, then the lines resolved (R345, R722, R723, R725). The same end has every kind of CPU round: the u.cycle cycles of what the CPU did pass in that way, and where the clock has no room for them it stays, no chip ticks, and a clock overflow is recorded (R720, R54). -/
def Obligations.InstructionAdvancesClock : Prop :=
  (∀ (s : State) (i : Instr) (n : Nat), Executes s i → s.production → (boundary s).canonical →
      (∀ a : Word, hiByte a = 0#8 → (boundary s).plain a) →
      n = i.baseCycles + extraCycles i s.atExecution → s.clock + n < 2 ^ 64 →
      ∃ u t, exec i s.atExecution = .next u ∧ step s = .next t ∧ t.sched.fault = none
        ∧ t.clock = s.clock + n
        ∧ (s.config.chipOrder = List.range s.config.chips.length →
          ∃ v, TicksOnce none s.clock n { u with clock := s.clock + n } v
            ∧ t = (resolveLines v).setCycle 0)) ∧
    (∀ u : State, u.production → u.sched.fault = none →
      (u.clock + u.cycle < 2 ^ 64 → u.config.chipOrder = List.range u.config.chips.length →
        ∃ v, TicksOnce none u.clock u.cycle { u with clock := u.clock + u.cycle } v
          ∧ finishRound u = (resolveLines v).setCycle 0) ∧
      (2 ^ 64 ≤ u.clock + u.cycle → finishRound u = u.raise (.clockOverflow u.clock)))

/-- With D = 0, AddCore leaves A + M + C modulo 256 in A, the ninth bit in C, and in V whether the signed sum lies outside -128 to 127; SubCore leaves A - M - (1 - C) modulo 256 in A, in C whether no borrow came out, and in V whether the signed difference lies outside -128 to 127; N and Z describe A, nothing else of the CPU changes; SubCore flags are the same with D = 1 (R450, R451; V as signed overflow, R65). -/
def Obligations.BinaryArithmetic : Prop :=
  ∀ (m : Byte) (c : Cpu),
    (c.flagD = false → c.addCore m =
      { c with
        a := c.a + m + BitVec.ofNat 8 c.flagC.toNat
        flagC := decide (0xFF < c.a.toNat + m.toNat + c.flagC.toNat)
        flagV := decide (c.a.toInt + m.toInt + c.flagC.toNat < -128
          ∨ 127 < c.a.toInt + m.toInt + c.flagC.toNat)
        flagN := (c.a + m + BitVec.ofNat 8 c.flagC.toNat).getLsbD 7
        flagZ := decide (c.a + m + BitVec.ofNat 8 c.flagC.toNat = 0#8) }) ∧
    (∀ b, b = (!c.flagC).toNat → c.subCore m =
      { c with
        a := if c.flagD then c.subDecimalResult m else c.a - m - BitVec.ofNat 8 b
        flagC := decide (m.toNat + b ≤ c.a.toNat)
        flagV := decide (c.a.toInt - m.toInt - b < -128 ∨ 127 < c.a.toInt - m.toInt - b)
        flagN := (c.a - m - BitVec.ofNat 8 b).getLsbD 7
        flagZ := decide (c.a - m - BitVec.ofNat 8 b = 0#8) })

/-- With D = 1: for every A and M, valid packed decimal or not, AddCore leaves the A, C, N, V and Z of the formula of R450, N and V from the intermediate sum after the correction of the low digit, Z from the binary sum, and changes nothing else of the CPU; SubCore leaves the A of the formula of R451 (its flags are stated by BinaryArithmetic). Where both operands are valid packed decimal numbers, that is the packed decimal sum modulo 100 with C whether it is 100 or more, and the packed decimal difference modulo 100 with C whether there is no borrow. -/
def Obligations.DecimalArithmetic : Prop :=
  ∀ (m : Byte) (c : Cpu), c.flagD = true →
    (∀ lo t u : Nat,
      lo = c.a.toNat % 16 + m.toNat % 16 + c.flagC.toNat
        + (if 9 < c.a.toNat % 16 + m.toNat % 16 + c.flagC.toNat then 6 else 0) →
      t = lo % 16 + 16 * (c.a.toNat / 16) + 16 * (m.toNat / 16) + (if 15 < lo then 16 else 0) →
      u = (if 9 < t / 16 % 32 then t + 96 else t) →
      c.addCore m =
        { c with
          a := BitVec.ofNat 8 u
          flagC := decide (15 < u / 16 % 256)
          flagN := decide (128 ≤ t % 256)
          flagV := decide (c.a.msb = m.msb) && decide (c.a.msb ≠ decide (128 ≤ t % 256))
          flagZ := decide (c.a + m + BitVec.ofNat 8 c.flagC.toNat = 0#8) }) ∧
    (∀ lo hi : Int,
      lo = c.a.toNat % 16 - m.toNat % 16 - (!c.flagC).toNat →
      hi = 16 * (c.a.toNat / 16) - 16 * (m.toNat / 16) - (if lo < 0 then 16 else 0) →
      (c.subCore m).a = BitVec.ofInt 8
        ((if lo < 0 then (lo - 6) % 16 else lo) + (if hi < 0 then hi - 96 else hi))) ∧
    (∀ (dec : Byte → Nat) (valid : Byte → Prop),
      (∀ v, dec v = 10 * (v.toNat / 16) + v.toNat % 16) →
      (∀ v, valid v ↔ v.toNat / 16 ≤ 9 ∧ v.toNat % 16 ≤ 9) → valid c.a → valid m →
      (valid (c.addCore m).a ∧ dec (c.addCore m).a = (dec c.a + dec m + c.flagC.toNat) % 100
        ∧ (c.addCore m).flagC = decide (100 ≤ dec c.a + dec m + c.flagC.toNat)) ∧
      (valid (c.subCore m).a
        ∧ dec (c.subCore m).a = (dec c.a + 100 - dec m - (!c.flagC).toNat) % 100
        ∧ (c.subCore m).flagC = decide (dec m + (!c.flagC).toNat ≤ dec c.a)))

/-- The status byte has N, V, 1, the break bit, D, I, Z, C in bits 7 to 0, and loading a byte into the flags takes the same bits, ignores bits 5 and 4, and changes nothing else of the CPU; the break bit is the one the caller gives, 1 for PHP and BRK and 0 for an interrupt entry (R66; which caller gives which is stated with each). -/
def Obligations.StatusByteLayout : Prop :=
  (∀ (b : Bool) (c : Cpu),
      (c.pByte b).getLsbD 7 = c.flagN ∧ (c.pByte b).getLsbD 6 = c.flagV ∧ (c.pByte b).getLsbD 5 = true
      ∧ (c.pByte b).getLsbD 4 = b ∧ (c.pByte b).getLsbD 3 = c.flagD ∧ (c.pByte b).getLsbD 2 = c.flagI
      ∧ (c.pByte b).getLsbD 1 = c.flagZ ∧ (c.pByte b).getLsbD 0 = c.flagC) ∧
    (∀ (p : Byte) (c : Cpu), c.setP p =
      { c with
        flagN := p.getLsbD 7
        flagV := p.getLsbD 6
        flagD := p.getLsbD 3
        flagI := p.getLsbD 2
        flagZ := p.getLsbD 1
        flagC := p.getLsbD 0 })

/-- In a production machine an interrupt entry completes in seven accesses: two dummy reads at PC, PC pushed high byte first, P pushed with B = 0, and PC loaded from the vector of its kind. I is set, an NMI clears its latch, S moves by 3, and nothing else of the CPU and no byte of any store but the three stack bytes changes (R880). -/
def Obligations.InterruptEntryTaken : Prop :=
  ∀ (i : Interrupt) (s : State) (ws : List (Word × Byte)) (vec : Word), s.production → s.canonical →
    ws = [(stackAddr s.cpu.s, hiByte (s.cpu.pc)), (stackAddr (s.cpu.s - 1#8), loByte (s.cpu.pc)),
      (stackAddr (s.cpu.s - 2#8), s.cpu.pByte false)] →
    vec = (match i with
      | .nmi => 0xFFFA#16
      | .irq => 0xFFFE#16) →
    ∃ d e lo hi t, interruptEntry i s = .ok () t ∧ s.ReadsAfter ws vec lo
      ∧ s.ReadsAfter ws (vec + 1#16) hi
      ∧ Ran s ws [readRec s 0 .dummy s.cpu.pc d, readRec s 1 .dummy s.cpu.pc e,
          writeRec s 2 .stack (stackAddr s.cpu.s) (hiByte (s.cpu.pc)),
          writeRec s 3 .stack (stackAddr (s.cpu.s - 1#8)) (loByte (s.cpu.pc)),
          writeRec s 4 .stack (stackAddr (s.cpu.s - 2#8)) (s.cpu.pByte false),
          readRec s 5 .vector vec lo, readRec s 6 .vector (vec + 1#16) hi]
        { s.cpu with
          s := s.cpu.s - 3#8
          flagI := true
          pc := mkWord hi lo
          nmiPending := decide (i = .irq) && s.cpu.nmiPending } t

/-- Where the stack page lies in RAM whose three top bytes are distinct bytes of stores, an interrupt entry followed, from any later state with the same S and the same stack bytes, by RTI gives back PC, S and all six flags exactly as they were before the entry, and leaves A, X and Y as the handler left them (R880, R882). -/
def Obligations.EntryThenReturnResumes : Prop :=
  ∀ (i : Interrupt) (s t u : State), s.production → s.canonical →
    (∀ k < 3, s.writable (stackAddr (s.cpu.s - BitVec.ofNat 8 k))) →
    (∀ j < 3, ∀ k < 3, s.target (stackAddr (s.cpu.s - BitVec.ofNat 8 j))
      = s.target (stackAddr (s.cpu.s - BitVec.ofNat 8 k)) → j = k) →
    interruptEntry i s = .ok () t → u.production → u.canonical → u.bus.maps = t.bus.maps →
    u.cpu.s = t.cpu.s →
    (∀ k < 3, u.peek (stackAddr (s.cpu.s - BitVec.ofNat 8 k))
      = t.peek (stackAddr (s.cpu.s - BitVec.ofNat 8 k))) →
    ∃ v, exec .rti u = .next v ∧ v.cpu =
      { u.cpu with
        pc := s.cpu.pc
        s := s.cpu.s
        flagN := s.cpu.flagN
        flagV := s.cpu.flagV
        flagD := s.cpu.flagD
        flagI := s.cpu.flagI
        flagZ := s.cpu.flagZ
        flagC := s.cpu.flagC }

/-- Where the two top stack bytes are distinct bytes of RAM stores, JSR followed, from any later state with the same S and the same stack bytes, by RTS continues at the address after the JSR with S as before it (R535, R536). -/
def Obligations.CallThenReturnResumes : Prop :=
  ∀ (w : Word) (s t u : State), s.production → s.canonical →
    (∀ k < 2, s.writable (stackAddr (s.cpu.s - BitVec.ofNat 8 k))) →
    s.target (stackAddr s.cpu.s) ≠ s.target (stackAddr (s.cpu.s - 1#8)) →
    exec (.jsrAbs w) s = .next t → u.production → u.canonical → u.bus.maps = t.bus.maps →
    u.cpu.s = t.cpu.s →
    (∀ k < 2, u.peek (stackAddr (s.cpu.s - BitVec.ofNat 8 k))
      = t.peek (stackAddr (s.cpu.s - BitVec.ofNat 8 k))) →
    ∃ v, exec .rts u = .next v
      ∧ v.cpu = { u.cpu with pc := s.cpu.pc + 1#16, s := s.cpu.s }

/-- In a production machine the reset sequence completes in seven reads: two at PC, three of the stack page as S moves down by 3 with nothing written, and the two bytes of the reset vector. It sets I, loads PC, and clears the pending reset, the jam and the NMI latch; nothing else of the CPU and no byte of any store changes (R304). -/
def Obligations.ResetSequenceRuns : Prop :=
  ∀ s : State, s.production → s.canonical →
    ∃ d e f g h lo hi t, resetSequence s = .ok () t ∧ s.ReadsAfter [] 0xFFFC#16 lo
      ∧ s.ReadsAfter [] 0xFFFD#16 hi
      ∧ Ran s [] [readRec s 0 .dummy s.cpu.pc d, readRec s 1 .dummy s.cpu.pc e,
          readRec s 2 .dummy (stackAddr s.cpu.s) f, readRec s 3 .dummy (stackAddr (s.cpu.s - 1#8)) g,
          readRec s 4 .dummy (stackAddr (s.cpu.s - 2#8)) h,
          readRec s 5 .vector 0xFFFC#16 lo, readRec s 6 .vector 0xFFFD#16 hi]
        { s.cpu with
          s := s.cpu.s - 3#8
          flagI := true
          pc := mkWord hi lo
          resetPending := false
          jammed := false
          nmiPending := false } t

/-- In a running production machine whose reset vector lies in stores of the power-on table, a requested reset is honoured and the reset sequence runs in one step of seven cycles: the table is the power-on table, A, X, Y, N, V, D, Z, C and, without reset-time images, every store byte are kept, S moves by 3, I is set and PC is the word at the reset vector (R753, R960). -/
def Obligations.HostResetRestartsCpu : Prop :=
  ∀ s : State, s.production → s.canonical → s.sched.fault = none → s.sched.run = .running →
    s.sched.hostReq = { pause := false, reset := true, powerOff := false } → s.config.imagesReset = [] →
    s.clock + 7 < 2 ^ 64 →
    targetStored (target s.config.powerOnMaps 0xFFFC#16) = true →
    targetStored (target s.config.powerOnMaps 0xFFFD#16) = true →
    ∃ t, step s = .next t ∧ t.sched.fault = none ∧ t.clock = s.clock + 7
      ∧ t.bus.maps = s.config.powerOnMaps ∧ (∀ id off, t.storeByte id off = s.storeByte id off)
      ∧ t.cpu =
        { s.cpu with
          s := s.cpu.s - 3#8
          flagI := true
          pc := mkWord ((honourReset s).peek 0xFFFD#16) ((honourReset s).peek 0xFFFC#16)
          resetPending := false
          jammed := false
          irqIn := t.sched.irqRes
          nmiIn := t.sched.nmiRes
          nmiPrev := t.sched.nmiRes
          nmiPending := t.sched.nmiRes }

/-- While no reset is pending at the boundary, a step of a machine with a jammed CPU leaves it jammed and leaves every register and flag alone; only the interrupt inputs may change, at the resolution. In a production machine whose boundary leaves the loop running, with no active stall and room on the clock, the step completes without a fault in exactly one cycle, makes no bus access and changes no byte of any store; the interrupt inputs are those the resolution gives; and with the chip order of R724 every chip ticked that one cycle (R305, R660, R725, R740). -/
def Obligations.JammedUntilReset : Prop :=
  (∀ s t : State, s.sched.fault = none → s.cpu.jammed = true →
      (boundary s).cpu.resetPending = false → step s = .next t →
      t.cpu = { s.cpu with
        irqIn := t.cpu.irqIn
        nmiIn := t.cpu.nmiIn
        nmiPrev := t.cpu.nmiPrev
        nmiPending := t.cpu.nmiPending }) ∧
    (∀ s : State, s.production → s.sched.fault = none → s.cpu.jammed = true →
      (boundary s).cpu.resetPending = false → s.sched.run = .running →
      (boundary s).sched.run = .running → (takeStall s.clock (boundary s).sched.stalls).1 = none →
      s.clock + 1 < 2 ^ 64 →
      ∃ t, step s = .next t ∧ t.sched.fault = none ∧ t.clock = s.clock + 1 ∧ t.history = s.history
        ∧ t.bus.maps = (boundary s).bus.maps
        ∧ (∀ id off, t.storeByte id off = (boundary s).storeByte id off)
        ∧ t.cpu = { s.cpu with
          irqIn := t.sched.irqRes
          nmiIn := t.sched.nmiRes
          nmiPrev := t.sched.nmiRes
          nmiPending := s.cpu.nmiPending || (t.sched.nmiRes && !s.cpu.nmiPrev) }
        ∧ (s.config.chipOrder = List.range s.config.chips.length →
          ∃ v, TicksOnce none s.clock 1
              { startRound (boundary s) with clock := s.clock + 1, cycle := 1 } v
            ∧ t = (resolveLines v).setCycle 0))

/-- Resolution presents to the CPU, per class, whether any chip asserts its line; an NMI becomes pending on a rise of the resolved level since the last resolution and stays pending; the previous level becomes the new one; nothing else changes (R740). -/
def Obligations.LinesResolve : Prop :=
  ∀ s : State, resolveLines s =
    { s with
      sched := { s.sched with irqRes := s.chips.any chipIrq, nmiRes := s.chips.any chipNmi }
      cpu := { s.cpu with
        irqIn := s.chips.any chipIrq
        nmiIn := s.chips.any chipNmi
        nmiPending := s.cpu.nmiPending || (s.chips.any chipNmi && !s.cpu.nmiPrev)
        nmiPrev := s.chips.any chipNmi } }

/-- In a production machine a write to an address of RAM makes that address, and every address that selects the same byte, read as the written byte, and leaves what every other address reads as alone (through peek, R188); a write to ROM changes no store (R161, R186). A read or write of an address of an I/O window, in any machine whose mappings are disjoint, calls the register handler of the chip that owns the window at the offset of the address in it and at the cycle of the access: a reference timer answers the byte of refTimerRead and is left as it says, or is left as refTimerWrite says, with the bus and the CPU unchanged; of any other chip the byte, the core, the phase counters and the requests are those of its handler (free functions, log entry 7), a write being recorded first where the chip is a video chip, and no store, mapping or CPU field changes (R154, R160, R161, R164, R706). -/
def Obligations.WriteThenReadBack : Prop :=
  (∀ (s t : State) (kind : AccessKind) (a : Word) (v : Byte), s.production → s.canonical →
      memWrite kind a v s = .ok () t →
      (∀ id off, s.target a = .store .ram id off → s.hasStore id = true →
        (∀ b k, s.target b = .store k id off → t.peek b = v) ∧
        (∀ b, (∀ k, s.target b ≠ .store k id off) → t.peek b = s.peek b)) ∧
      (∀ id off, s.target a = .store .rom id off → t.bus.stores = s.bus.stores)) ∧
    (∀ (s : State) (kind : AccessKind) (a : Word) (v : Byte) (m : Mapping) (off now : Nat),
      mapsDisjoint s.bus.maps = true → m ∈ s.bus.maps → m.kind = .ioWindow → m.covers a = true →
      off = a.toNat - m.start.toNat → now = s.clock + s.cycle →
      (∀ tm, s.chips[m.owner]? = some (.refTimer tm) →
        (∃ t, memRead kind a s = .ok (refTimerRead tm off).1 t ∧ t.bus = s.bus ∧ t.cpu = s.cpu
          ∧ t.chips = s.chips.set m.owner (.refTimer (refTimerRead tm off).2)) ∧
        (∃ t, memWrite kind a v s = .ok () t ∧ t.bus = s.bus ∧ t.cpu = s.cpu
          ∧ t.chips = s.chips.set m.owner (.refTimer (refTimerWrite tm off v)))) ∧
      (∀ c, s.chips[m.owner]? = some c → (∀ tm, c ≠ .refTimer tm) →
        (∀ h, h = (Config.coreRead m.owner c off now).2 →
          ∃ t, memRead kind a s = .ok (Config.coreRead m.owner c off now).1 t ∧ t.cpu = s.cpu
            ∧ t.chips = s.chips.set m.owner
              (chipWithCore h.reaction.core (setCounters (specOf s.config m.owner) h.counters c))
            ∧ t.sched.stalls = s.sched.stalls ++ emittedStalls m.owner now h.reaction.stalls
            ∧ t.bus =
              { s.bus with
                pendingSwitches := s.bus.pendingSwitches
                  ++ emittedSwitches s.config.bankTables.length now h.reaction.switches }) ∧
        (∀ h, h = Config.coreWrite m.owner c off v now →
          ∃ t, memWrite kind a v s = .ok () t ∧ t.cpu = s.cpu
            ∧ t.chips = s.chips.set m.owner (chipWithCore h.reaction.core
              (setCounters (specOf s.config m.owner) h.counters (recordLatch off now v c)))
            ∧ t.sched.stalls = s.sched.stalls ++ emittedStalls m.owner now h.reaction.stalls
            ∧ t.bus =
              { s.bus with
                pendingSwitches := s.bus.pendingSwitches
                  ++ emittedSwitches s.config.bankTables.length now h.reaction.switches })))

/-- While a fault is recorded no step makes progress: the step answers the fault, which is the way this model reports it (log entry 4, DESIGN CHOICE). A clock that would pass 2^64 - 1 does not wrap: the advance faults and leaves the machine as it was (R54, R81, R905). -/
def Obligations.FaultStopsMachine : Prop :=
  (∀ (s : State) (f : Fault), s.sched.fault = some f → step s = .fault f) ∧
    (∀ (s : State) (n : Nat), 2 ^ 64 ≤ s.clock + n →
      advance n s = .error (.clockOverflow s.clock) s)

/-- In every production machine with canonical stores and no fault, a step, whatever it runs (a reset, an interrupt, any of the 256 instructions, a stall round with a granted chip), answers a next state, and the only fault that state may record is the clock overflow; in a validation build an access of an unmapped address ends in the fault, with nothing changed (R163, R761, R900, R905, R54). That the step which meets a fault answers a next state with the fault recorded is the choice of the model (log entry 4, DESIGN CHOICE), and the canonical form of the stores is its representation (log entry 5, DESIGN CHOICE). -/
def Obligations.ProductionNeverFaultsOnBus : Prop :=
  (∀ s : State, s.production → s.canonical → s.sched.fault = none →
      ∃ t, step s = .next t ∧ (t.sched.fault = none ∨ ∃ n, t.sched.fault = some (.clockOverflow n))) ∧
    (∀ (s : State) (kind : AccessKind) (a : Word) (v : Byte), s.config.validateBus = true →
      s.target a = .unmapped →
      memRead kind a s = .error (.unmappedAddressError .read a (s.clock + s.cycle)) s ∧
      memWrite kind a v s = .error (.unmappedAddressError .write a (s.clock + s.cycle)) s)

/-- Whatever one step of a running machine does (any instruction, an interrupt, a reset, a stall round, the ticks of every chip), the mapping table afterwards is the one its boundary left, and the configuration is the same (R165, R51). -/
def Obligations.StepKeepsTable : Prop :=
  ∀ s t : State, s.sched.fault = none → s.sched.run = .running → step s = .next t →
    t.bus.maps = (boundary s).bus.maps ∧ t.config = s.config

/-- Whatever one step of a running machine does, every byte of a store that no RAM entry of the table in force names (a ROM store, or a bank not mapped) is as the boundary left it (R58, R161). -/
def Obligations.RomBytesKept : Prop :=
  ∀ (s t : State) (id : Nat), s.sched.fault = none → s.sched.run = .running → step s = .next t →
    (∀ m ∈ (boundary s).bus.maps, m.kind = .ram → m.owner ≠ id) →
    ∀ off, t.storeByte id off = (boundary s).storeByte id off

/-- From every state that has the invariant (a checked configuration, the configured stores with canonical bytes below their sizes, a sound and disjoint mapping table, a clock of 64 bits, well-formed queued switches, mapping events and stalls, every chip of its kind with its fields in range), every step that answers a next state gives a state that has it. The canonical form is the model representation (log entry 5), and what the check asks of a queued mapping event and of the widths of the configuration are its choice and its inference (log entries 23 and 14). -/
def Obligations.StepKeepsInvariant : Prop :=
  ∀ s t : State, s.Inv → step s = .next t → t.Inv

/-- State.reset has the invariant that every step keeps. Its configuration is the choice of the model (log entry 2, DESIGN CHOICE). -/
def Obligations.ResetHasInvariant : Prop :=
  State.reset.Inv

/-- A constructed machine is in Idle with the clock at 0, the power-on mapping table, empty queues, every CPU register and flag 0 with only the reset pending, no resolved level, no request and no fault; without power-on images every byte of every store reads 0; and each chip is in the power-on state of its specification (R82, R950, R951, with the check of R955). Three clauses rest on the choices of the model: of the power-on state of a chip, the empty lists of the video pipeline and the zero bit-cell remainder are log entry 9 (DESIGN CHOICE) and the start of the down-counters of an I/O chip is log entry 10 (DESIGN CHOICE), as its register bank and lines are the chip-defined ones of its specification (log entry 7); that the check found no error rests on what the model checks beyond the words of R955 (log entry 14, DEDUCED); and the last clause, that the machine has the invariant every step keeps, rests on that check and on the canonical form of the stores (log entry 5, DESIGN CHOICE). -/
def Obligations.PowerOnValues : Prop :=
  ∀ (c : MachineConfig) (s : State), construct c = .ok s →
    checkConfig c c.powerOnMaps = none ∧ s.config = c ∧ s.clock = 0 ∧ s.bus.maps = c.powerOnMaps
    ∧ s.bus.pendingSwitches = [] ∧ s.bus.pendingExternal = []
    ∧ s.cpu = ⟨0#8, 0#8, 0#8, 0#8, 0#16, false, false, false, false, false, false,
        true, false, false, false, false, false⟩
    ∧ s.chips = c.chips.map chipPowerOn
    ∧ s.sched = ⟨.idle, [], false, false, ⟨false, false, false⟩, none⟩
    ∧ (∀ id off, c.imagesPowerOn = [] → s.storeByte id off = 0#8)
    ∧ s.Inv

/-- Every entry of the table of R752: pause, resume, reset and power_off in Idle, Running, Paused and Stopped, and all four while a fault is set. -/
def Obligations.HostCallsByState : Prop :=
  ∀ (s : State) (r : RunState) (q : HostReq), s.sched.run = r → s.sched.hostReq = q →
    (s.sched.fault = none →
      (r = .running →
        hostPause s = { s with sched := { s.sched with hostReq := { q with pause := true } } } ∧
        hostResume s = .ok { s with sched := { s.sched with hostReq := { q with pause := false } } } ∧
        hostReset s = { s with sched := { s.sched with hostReq := { q with reset := true } } } ∧
        hostPowerOff s = { s with sched := { s.sched with hostReq := { q with powerOff := true } } }) ∧
      (r ≠ .running → hostPause s = s) ∧
      (r = .idle → (∀ e, checkConfig s.config s.bus.maps = some e → hostResume s = .error e) ∧
        (checkConfig s.config s.bus.maps = none →
          hostResume s = .ok { s with sched := { s.sched with run := .running } })) ∧
      (r = .paused → hostResume s = .ok { s with sched := { s.sched with run := .running } }) ∧
      (r = .idle ∨ r = .paused → hostReset s = honourReset s ∧ hostPowerOff s = honourPowerOff s) ∧
      (r = .stopped → hostResume s = .ok s ∧ hostReset s = s ∧ hostPowerOff s = s)) ∧
    (s.sched.fault ≠ none → hostPause s = s ∧ hostResume s = .ok s ∧ hostReset s = s ∧
      (r ≠ .stopped → hostPowerOff s = honourPowerOff s) ∧ (r = .stopped → hostPowerOff s = s))

/-- The arbiter removes every request whose window has elapsed; of the others it takes the first active one in FIFO order and keeps the rest in order; where none is active it takes none and every request kept lies in the future (R732). -/
def Obligations.TakeStallTakesFirstActive : Prop :=
  ∀ (now : Nat) (stalls live : List Stall),
    live = stalls.filter (fun st => decide (now < st.fromCycle + st.duration)) →
    (∀ st, (takeStall now stalls).1 = some st →
      ∃ front back, live = front ++ st :: back ∧ (takeStall now stalls).2 = front ++ back
        ∧ st.fromCycle ≤ now ∧ now < st.fromCycle + st.duration ∧ ∀ x ∈ front, now < x.fromCycle) ∧
    ((takeStall now stalls).1 = none →
      (takeStall now stalls).2 = live ∧ ∀ x ∈ live, now < x.fromCycle)

/-- In a production machine with canonical stores, a step whose boundary leaves a running loop and an active stall completes: the clock ends at the end of the window of the stall, and the CPU changes only in its interrupt inputs, as the resolution sets them; with the chip order of R724 the step is the clock moved there, then every chip ticked once, in chip index order, for exactly the rest of the window, the requester alone with the grant, then the lines resolved (R720, R722, R723, R725, R733, R734). -/
def Obligations.StallRoundSparesCpu : Prop :=
  ∀ (s : State) (st : Stall) (stop : Nat), s.production → (boundary s).canonical →
    s.sched.fault = none → s.sched.run = .running → (boundary s).sched.run = .running →
    (takeStall s.clock (boundary s).sched.stalls).1 = some st →
    stop = st.fromCycle + st.duration → stop < 2 ^ 64 →
    ∃ t, step s = .next t ∧ t.sched.fault = none ∧ t.clock = stop
      ∧ t.cpu = { (boundary s).cpu with
        irqIn := t.sched.irqRes
        nmiIn := t.sched.nmiRes
        nmiPrev := t.sched.nmiRes
        nmiPending := (boundary s).cpu.nmiPending || (t.sched.nmiRes && !(boundary s).cpu.nmiPrev) }
      ∧ (s.config.chipOrder = List.range s.config.chips.length →
        ∃ v, TicksOnce (some st.chip) s.clock (stop - s.clock)
            { startRound (boundary s) with clock := stop } v
          ∧ t = resolveLines v)

/-- At a boundary with no request and no mapping event, where some queued bank switch is due and the last due one names a configured table, the mapping table becomes exactly that table, every due switch leaves the queue and every other stays in order; where none is due the table stays (R181, R183). -/
def Obligations.BankSwitchesApply : Prop :=
  ∀ s : State, s.sched.hostReq = HostReq.clear → s.bus.pendingExternal = [] →
    (boundary s).bus.pendingSwitches
      = s.bus.pendingSwitches.filter (fun b => decide (s.clock < b.effectiveCycle)) ∧
    ((∀ b ∈ s.bus.pendingSwitches, s.clock < b.effectiveCycle) →
      (boundary s).bus.maps = s.bus.maps) ∧
    (∀ front b back table, s.bus.pendingSwitches = front ++ b :: back → b.effectiveCycle ≤ s.clock →
      (∀ x ∈ back, s.clock < x.effectiveCycle) → s.config.bankTables[b.table]? = some table →
      (boundary s).bus.maps = table)

/-- Installing a mapping removes every entry whose range intersects its range, keeps every other and adds it; removing a range removes every entry inside it and keeps the partly overlapping ones; both keep a disjoint table disjoint, and after an install every address of the new range selects the new entry (R185). -/
def Obligations.MappingEventsKeepDisjoint : Prop :=
  ∀ (maps : List Mapping) (m : Mapping) (r : AddrRange),
    (∀ q, q ∈ installMapping maps m ↔ q = m ∨ (q ∈ maps ∧ q.range.intersects m.range = false)) ∧
    (∀ q, q ∈ removeMapping maps r ↔ q ∈ maps ∧ q.range.inside r = false) ∧
    (mapsDisjoint maps = true →
      mapsDisjoint (installMapping maps m) = true ∧ mapsDisjoint (removeMapping maps r) = true) ∧
    (∀ a, m.covers a = true → resolve (installMapping maps m) a = some m)

/-- A started timer whose counter counts P cycles to zero (its value, or 65536 for 0) counts down without an event for fewer than P cycles; at the P-th it sets evt and, in continuous mode, reloads the latch and stays started, in one-shot mode stops at 0; a stopped timer does not change. So with latch L in continuous mode evt is set every L cycles, or every 65536 for latch 0. The tick of a chip that is a reference timer by n cycles does these n cycles to it and nothing else (R918). -/
def Obligations.TimerExpiresEachPeriod : Prop :=
  (∀ (t : RefTimer) (p : Nat), p = (if t.counter = 0#16 then 65536 else t.counter.toNat) →
      (timerStart t = false → ∀ n, refTimerTick n t = t) ∧
      (timerStart t = true →
        (∀ n < p, refTimerTick n t = { t with counter := t.counter - BitVec.ofNat 16 n }) ∧
        (timerOneShot t = false →
          refTimerTick p t = { t with counter := t.latch, evt := true }) ∧
        (timerOneShot t = true → ∀ n,
          refTimerTick (p + n) t
            = { t with counter := 0#16, evt := true, ctrl := t.ctrl &&& 0xFE#8 }))) ∧
    (∀ (s : State) (i start n : Nat) (granted : Bool) (t : RefTimer),
      s.chips[i]? = some (.refTimer t) →
      tickChip i granted start n s = .ok () (s.setChip i (.refTimer (refTimerTick n t))))

/-- What a read and a write of each of the four registers gives and does, reading STATUS clearing evt, and the two lines as functions of the state (R916, R919). -/
def Obligations.TimerRegisterMap : Prop :=
  ∀ (t : RefTimer) (v : Byte),
    refTimerRead t 0 = (t.counter.setWidth 8, t) ∧
    refTimerRead t 1 = ((t.counter >>> 8).setWidth 8, t) ∧
    refTimerRead t 2 = (t.ctrl &&& 0x0F#8, t) ∧
    refTimerRead t 3 = (if t.evt then 1#8 else 0#8, { t with evt := false }) ∧
    refTimerWrite t 0 v = { t with latch := (t.latch &&& 0xFF00#16) ||| v.setWidth 16 } ∧
    refTimerWrite t 1 v = { t with latch := (t.latch &&& 0x00FF#16) ||| (v.setWidth 16 <<< 8) } ∧
    refTimerWrite t 2 v = { t with
      ctrl := v &&& 0x0F#8
      counter := if v.getLsbD 4 then t.latch else t.counter } ∧
    refTimerWrite t 3 v = t ∧
    chipIrq (.refTimer t) = (t.evt && t.ctrl.getLsbD 2 && !t.ctrl.getLsbD 3) ∧
    chipNmi (.refTimer t) = (t.evt && t.ctrl.getLsbD 2 && t.ctrl.getLsbD 3)

/-- After n cycles the phase of the raster is the sum of its phase and n modulo FRAME_CYCLES, and frames has grown by the number of wraps; so FRAME_CYCLES cycles from power-on wrap it exactly once. The tick of a video chip without the grant by n cycles, at any clock, leaves the chip a video chip with that phase and those frames (R710). -/
def Obligations.RasterCountsFrames : Prop :=
  (∀ (frame n : Nat) (v : VideoState), v.phase < frame → v.frames < 2 ^ 64 →
      ((rasterAdvance frame)^[n] v).phase = (v.phase + n) % frame ∧
      ((rasterAdvance frame)^[n] v).frames = (v.frames + (v.phase + n) / frame) % 2 ^ 64 ∧
      ((rasterAdvance frame)^[n] v).latches = v.latches) ∧
    (∀ (s : State) (i start n frame : Nat) (v : VideoState) (core : ChipCore),
      s.chips[i]? = some (.video v core) → frame = specFrameCycles (specOf s.config i) →
      v.phase < frame → v.frames < 2 ^ 64 →
      ∃ t v' core', tickChip i false start n s = .ok () t ∧ t.chips[i]? = some (.video v' core')
        ∧ v'.phase = (v.phase + n) % frame
        ∧ v'.frames = (v.frames + (v.phase + n) / frame) % 2 ^ 64)

/-- Over n cycles the disk controller processes (r + n * NUM) div DEN bit cells and keeps the remainder modulo DEN, however the cycles are split into ticks; the tick of a disk controller without the grant by n cycles leaves it with that remainder (R713). The clause about an I/O chip is a choice of the model, not a rule (DESIGN CHOICE, log entry 10; the order within a cycle, DEDUCED, log entry 16): the chip-defined part of a tick changes no down-counter and drops no line that expires in its cycle. So the tick without the grant by n cycles applies downCounterCycle n times to each down-counter, and a tick by one cycle in which a counter expires leaves the line of its class asserted. One downCounterCycle leaves a stopped counter alone and takes one from a running one; where that brings it to zero, it stops there in one-shot mode and takes its reload value in continuous mode, as R712 describes a timer; what a running counter at 0 counts to is a free value (log entry 10). -/
def Obligations.BitCellsLoseNoFraction : Prop :=
  (∀ (num den n r : Nat), r < den →
      (diskRemainder num den)^[n] r = (r + n * num) % den ∧
      ((List.range n).map fun k => diskCells num den ((diskRemainder num den)^[k] r)).sum
        = (r + n * num) / den) ∧
    (∀ (s : State) (i start n r : Nat) (core : ChipCore), s.chips[i]? = some (.disk r core) →
      r < (specBitcell (specOf s.config i)).2 →
      ∃ t core', tickChip i false start n s = .ok () t
        ∧ t.chips[i]? = some (.disk ((r + n * (specBitcell (specOf s.config i)).1)
          % (specBitcell (specOf s.config i)).2) core')) ∧
    (∀ (s : State) (i start n : Nat) (timers : List DownCounter) (core : ChipCore),
      s.chips[i]? = some (.io timers core) →
      ∃ t core', tickChip i false start n s = .ok () t
        ∧ t.chips[i]? = some (.io ((List.map (downCounterCycle i))^[n] timers) core')
        ∧ (n = 1 → countersExpire i false timers = true → core'.irq = true)
        ∧ (n = 1 → countersExpire i true timers = true → core'.nmi = true))

/-- For every chip of every kind, granted or not, ticking it a cycles and then b cycles from there does to the whole machine exactly what ticking it a + b cycles does (R702). -/
def Obligations.TicksCompose : Prop :=
  ∀ (i : Nat) (granted : Bool) (start a b : Nat) (s : State),
    tickChip i granted start (a + b) s
      = (do tickChip i granted start a; tickChip i granted (start + a) b) s

/-- For every state that has the machine invariant, as every constructed, stepped and loaded machine has, a snapshot it saves loads into any machine of the same configuration that may load, and gives every field of the saved state but the run state, the requests and the fault; the result has the invariant, and saving it gives the same bytes (R850). FitsSnapshot asks that the lengths of its lists fit the counts of the format (log entry 18); the payload of a chip other than the reference timer is its fields in a free layout, a bijection (log entry 7). -/
def Obligations.SnapshotRoundTrip : Prop :=
  ∀ (s t : State) (bytes : List Byte), s.Inv → s.FitsSnapshot → save s = .ok bytes →
    t.config = s.config → t.chips.length = s.chips.length → t.sched.run ≠ .stopped →
    (t.sched.run = .running → t.sched.fault ≠ none) →
    load t bytes = .ok (t.restored s) ∧ (t.restored s).Inv ∧ save (t.restored s) = .ok bytes

/-- The number of bytes of a snapshot is the sum of R851, with the chips in CHIP_ORDER. -/
def Obligations.SnapshotSize : Prop :=
  ∀ s : State, s.config.chipOrder = List.range s.chips.length →
    (snapshotBytes s).length = s.config.snapHeaderBytes + 6 * (4 + s.chips.length) + 8
      + (2 + 9 * s.bus.maps.length + 2 + (s.bus.stores.map fun st => 7 + st.size).sum
        + 2 + 10 * s.bus.pendingSwitches.length + 2 + 10 * s.bus.pendingExternal.length)
      + 8 + (s.chips.mapIdx fun i c => (saveChip i c).length).sum
      + (4 + 14 * s.sched.stalls.length)
end

