-- ==== Sys2Proof/Laws/Bits.lean ====
section
/-! SUPPORT. The two bytes of a word, and index additions within and across a page. -/

namespace Sys2Proof.Machine

/-- `hi:lo` as a number (R17). -/
theorem toNat_mkWord (hi lo : Byte) : (mkWord hi lo).toNat = hi.toNat * 256 + lo.toNat := by
  have := lo.isLt
  have h : (hi ++ lo).toNat = hi.toNat <<< 8 ||| lo.toNat := BitVec.toNat_append ..
  rw [mkWord, h, ← Nat.shiftLeft_add_eq_or_of_lt (by omega), Nat.shiftLeft_eq]

theorem toNat_hiByte (w : Word) : (hiByte w).toNat = w.toNat / 256 := by
  have := w.isLt
  simp only [hiByte, BitVec.extractLsb'_toNat, Nat.shiftRight_eq_div_pow]; omega

theorem toNat_loByte (w : Word) : (loByte w).toNat = w.toNat % 256 := by
  simp only [loByte, BitVec.extractLsb'_toNat, Nat.shiftRight_eq_div_pow]; omega

theorem toNat_zext16 (b : Byte) : (zext16 b).toNat = b.toNat := by
  have := b.isLt
  simp only [zext16, BitVec.toNat_setWidth]; omega

@[simp] theorem hiByte_mkWord (hi lo : Byte) : hiByte (mkWord hi lo) = hi := by
  apply BitVec.eq_of_toNat_eq
  have := lo.isLt
  rw [toNat_hiByte, toNat_mkWord]; omega

@[simp] theorem loByte_mkWord (hi lo : Byte) : loByte (mkWord hi lo) = lo := by
  apply BitVec.eq_of_toNat_eq
  have := lo.isLt
  rw [toNat_loByte, toNat_mkWord]; omega

@[simp] theorem mkWord_bytes (w : Word) : mkWord (hiByte w) (loByte w) = w := by
  apply BitVec.eq_of_toNat_eq
  rw [toNat_mkWord, toNat_hiByte, toNat_loByte]; omega

/-- An index addition that crosses no page keeps the high byte, so the unfixed address is the effective
one (R256, R258). -/
theorem unfixed_eq {w : Word} {r : Byte} (h : (loByte w).toNat + r.toNat < 256) :
    mkWord (hiByte w) (loByte w + r) = w + zext16 r := by
  apply BitVec.eq_of_toNat_eq
  have hw := w.isLt
  rw [toNat_mkWord, BitVec.toNat_add, BitVec.toNat_add, toNat_zext16, toNat_hiByte, toNat_loByte]
  rw [toNat_loByte] at h
  omega

end Sys2Proof.Machine
end

