-- ==== Sys2Proof/Laws/Memory.lean ====
section
/-! SUPPORT. Memory: what a write leaves at each offset, that it keeps the canonical form, and the same for
a set of stores and for the image loader. -/

namespace Sys2Proof.Machine

namespace Memory

/-- The canonical form weakens to an earlier start. -/
theorem wfFrom_mono {lo lo' : Nat} (h : lo' ≤ lo) : ∀ {m : Memory}, wfFrom lo m = true → wfFrom lo' m = true
  | [], _ => rfl
  | (a, v) :: m, hm => by
    simp only [wfFrom, Bool.and_eq_true, decide_eq_true_eq] at hm ⊢
    exact ⟨⟨by omega, hm.1.2⟩, hm.2⟩

/-- An offset below every entry reads as an unlisted one. -/
theorem read_below : ∀ {m : Memory} {lo x : Nat}, wfFrom lo m = true → x < lo → m.read x = unlisted
  | [], _, _, _, _ => rfl
  | (a, v) :: m, lo, x, hm, hx => by
    simp only [wfFrom, Bool.and_eq_true, decide_eq_true_eq] at hm
    rw [read, if_neg (by omega)]
    exact read_below hm.2 (by omega)

/-- A write keeps the canonical form. -/
theorem wfFrom_write : ∀ {m : Memory} {lo x : Nat} (v : Byte), wfFrom lo m = true → lo ≤ x →
    wfFrom lo (m.write x v) = true
  | [], lo, x, v, _, hx => by
    by_cases hv : v = unlisted <;> simp [write, wfFrom, hv, hx]
  | (a, w) :: m, lo, x, v, hm, hx => by
    simp only [wfFrom, Bool.and_eq_true, decide_eq_true_eq] at hm
    rw [write]
    split
    · split
      · simp [wfFrom, hm]
      · simp only [wfFrom, Bool.and_eq_true, decide_eq_true_eq]
        exact ⟨⟨hx, ‹_›⟩, ⟨by omega, hm.1.2⟩, hm.2⟩
    · split
      · split
        · exact wfFrom_mono (by omega) hm.2
        · simp only [wfFrom, Bool.and_eq_true, decide_eq_true_eq]
          exact ⟨⟨hm.1.1, ‹_›⟩, hm.2⟩
      · simp only [wfFrom, Bool.and_eq_true, decide_eq_true_eq]
        exact ⟨⟨hm.1.1, hm.1.2⟩, wfFrom_write v hm.2 (by omega)⟩

/-- A write keeps the canonical form. -/
theorem wf_write {m : Memory} (x : Nat) (v : Byte) (h : m.wf = true) : (m.write x v).wf = true :=
  wfFrom_write v h (Nat.zero_le x)

/-- After a write every offset reads as it should: the written one the new byte, every other the old. -/
theorem read_writeFrom : ∀ {m : Memory} {lo : Nat} (x y : Nat) (v : Byte), wfFrom lo m = true →
    (m.write x v).read y = if y = x then v else m.read y
  | [], lo, x, y, v, _ => by
    by_cases hv : v = unlisted <;> by_cases hy : y = x <;> simp [write, read, hv, hy]
  | (a, w) :: m, lo, x, y, v, hm => by
    simp only [wfFrom, Bool.and_eq_true, decide_eq_true_eq] at hm
    rw [write]
    split
    · have hb : y = x → read ((a, w) :: m) y = unlisted := fun e =>
        read_below (lo := a) (by simp [wfFrom, hm]) (by omega)
      split
      · by_cases hy : y = x
        · rw [if_pos hy, hb hy, ‹v = unlisted›]
        · rw [if_neg hy]
      · by_cases hy : y = x <;> simp [read, hy]
    · split
      · split
        · by_cases hy : y = x
          · rw [if_pos hy, read_below hm.2 (by omega), ‹v = unlisted›]
          · rw [if_neg hy, read, if_neg (by omega)]
        · by_cases hy : y = x
          · rw [if_pos hy, read, if_pos (by omega)]
          · rw [if_neg hy, read, if_neg (by omega), read, if_neg (by omega)]
      · by_cases hy : y = a
        · rw [read, if_pos hy, if_neg (by omega), read, if_pos hy]
        · rw [read, if_neg hy, read_writeFrom x y v hm.2, read, if_neg hy]

/-- After a write every offset reads as it should: the written one the new byte, every other the old. -/
theorem read_write {m : Memory} (x y : Nat) (v : Byte) (h : m.wf = true) :
    (m.write x v).read y = if y = x then v else m.read y := read_writeFrom x y v h

/-- A byte array's memory is canonical. -/
theorem wfFrom_ofBytesFrom : ∀ (off : Nat) (bs : List Byte), wfFrom off (ofBytesFrom off bs) = true
  | _, [] => rfl
  | off, b :: bs => by
    rw [ofBytesFrom]
    split
    · exact wfFrom_mono (Nat.le_succ off) (wfFrom_ofBytesFrom (off + 1) bs)
    · simp only [wfFrom, Bool.and_eq_true, decide_eq_true_eq]
      exact ⟨⟨Nat.le_refl off, ‹_›⟩, wfFrom_ofBytesFrom (off + 1) bs⟩

/-- A byte array's memory is canonical. -/
theorem wf_ofBytesFrom (off : Nat) (bs : List Byte) : (ofBytesFrom off bs).wf = true :=
  wfFrom_mono (Nat.zero_le off) (wfFrom_ofBytesFrom off bs)

end Memory

/-! ## Stores -/

/-- Writing to a store keeps every store's form. -/
theorem storesWrite_wf : ∀ {stores : List Store} (id off : Nat) (v : Byte),
    (∀ st ∈ stores, st.bytes.wf = true) → ∀ st ∈ storesWrite stores id off v, st.bytes.wf = true
  | [], _, _, _, h => h
  | st :: rest, id, off, v, h => by
    rw [storesWrite]
    split
    · intro st' h'
      rcases List.mem_cons.mp h' with rfl | h'
      · exact Memory.wf_write off v (h st (List.mem_cons_self ..))
      · exact h st' (List.mem_cons_of_mem _ h')
    · intro st' h'
      rcases List.mem_cons.mp h' with rfl | h'
      · exact h _ (List.mem_cons_self ..)
      · exact storesWrite_wf id off v (fun st hs => h st (List.mem_cons_of_mem _ hs)) st' h'

/-- After a write to a store, a byte reads as the new one where it was written, and as before elsewhere. -/
theorem storesRead_write : ∀ {stores : List Store} (id off id' off' : Nat) (v : Byte),
    (∀ st ∈ stores, st.bytes.wf = true) →
    storesRead (storesWrite stores id off v) id' off' =
      if id' = id ∧ off' = off ∧ (stores.any fun st => st.id == id) = true then v
      else storesRead stores id' off'
  | [], _, _, _, _, _, _ => by simp [storesWrite, storesRead]
  | st :: rest, id, off, id', off', v, h => by
    have ih := storesRead_write (stores := rest) id off id' off' v
      (fun st hs => h st (List.mem_cons_of_mem _ hs))
    rw [storesWrite]
    by_cases hid : st.id = id
    · rw [if_pos hid]
      by_cases hid' : id' = id
      · subst hid; subst hid'
        simp [storesRead, Memory.read_write off off' v (h st (List.mem_cons_self ..))]
      · have : ¬ st.id = id' := fun e => hid' (by omega)
        simp [storesRead, hid', this]
    · rw [if_neg hid]
      by_cases hid' : st.id = id'
      · have : ¬ id' = id := fun e => hid (by omega)
        simp [storesRead, hid', this]
      · simp only [storesRead, List.find?_cons, List.any_cons] at ih ⊢
        have h1 : (st.id == id') = false := by simp [hid']
        have h2 : (st.id == id) = false := by simp [hid]
        simp only [h1, h2, Bool.false_or]
        exact ih

/-- A write to a store removes no store and adds none. -/
theorem storesWrite_any (id off : Nat) (v : Byte) (id' : Nat) : ∀ stores : List Store,
    ((storesWrite stores id off v).any fun st => st.id == id') = stores.any fun st => st.id == id'
  | [] => rfl
  | st :: rest => by
    rw [storesWrite]
    split
    · simp
    · simp [storesWrite_any id off v id' rest]

/-! ## The image loader -/

/-- An image keeps every store's form. -/
theorem applyImageBytes_wf (table : List Mapping) : ∀ (bs : List Byte) (stores : List Store) (a : Word),
    (∀ st ∈ stores, st.bytes.wf = true) →
    ∀ st ∈ applyImageBytes table stores a bs, st.bytes.wf = true
  | [], _, _, h => h
  | b :: bs, stores, a, h => by
    rw [applyImageBytes]
    refine applyImageBytes_wf table bs _ _ ?_
    rw [applyImageByte]
    split
    · exact storesWrite_wf _ _ _ h
    · exact h
    · exact h

/-- The image loader keeps every store's form. -/
theorem applyImages_wf (table : List Mapping) : ∀ (images : List Image) (stores : List Store),
    (∀ st ∈ stores, st.bytes.wf = true) → ∀ st ∈ applyImages table stores images, st.bytes.wf = true
  | [], _, h => h
  | im :: rest, stores, h => by
    rw [applyImages]
    exact applyImages_wf table rest _ (applyImageBytes_wf table im.bytes stores _ h)

/-- A configuration's stores start canonical. -/
theorem initialStores_wf : ∀ sps : List StoreSpec, ∀ st ∈ initialStores sps, st.bytes.wf = true
  | [], st, h => by simp [initialStores] at h
  | sp :: rest, st, h => by
    rw [initialStores] at h
    have hin : ∀ (x : Store) (l : List Store), x.bytes.wf = true → (∀ st ∈ l, st.bytes.wf = true) →
        ∀ st ∈ insertStore x l, st.bytes.wf = true := by
      intro x l hx
      induction l with
      | nil => simp [insertStore, hx]
      | cons t l ih =>
        intro hl st hst
        rw [insertStore] at hst
        split at hst
        · rcases List.mem_cons.mp hst with rfl | hst
          · exact hx
          · exact hl st hst
        · rcases List.mem_cons.mp hst with rfl | hst
          · exact hl _ (List.mem_cons_self ..)
          · exact ih (fun st hs => hl st (List.mem_cons_of_mem _ hs)) st hst
    exact hin _ _ rfl (initialStores_wf rest) st h

/-- The memory of the machine right after power-on has the canonical form. -/
theorem reset_stores_wf : ∀ st ∈ State.reset.bus.stores, st.bytes.wf = true :=
  applyImages_wf _ _ _ (initialStores_wf _)

end Sys2Proof.Machine
end

