-- ==== Sys2Proof/Laws/State.lean ====
section
/-! SUPPORT. One lemma per field for each named update of the state: what the update leaves there. -/

namespace Sys2Proof.Machine

/-! ## A change of the CPU -/

@[simp] theorem State.mapCpu_config (s : State) (f : Cpu → Cpu) : (s.mapCpu f).config = s.config := rfl
@[simp] theorem State.mapCpu_clock (s : State) (f : Cpu → Cpu) : (s.mapCpu f).clock = s.clock := rfl
@[simp] theorem State.mapCpu_bus (s : State) (f : Cpu → Cpu) : (s.mapCpu f).bus = s.bus := rfl
@[simp] theorem State.mapCpu_cpu (s : State) (f : Cpu → Cpu) : (s.mapCpu f).cpu = f s.cpu := rfl
@[simp] theorem State.mapCpu_chips (s : State) (f : Cpu → Cpu) : (s.mapCpu f).chips = s.chips := rfl
@[simp] theorem State.mapCpu_sched (s : State) (f : Cpu → Cpu) : (s.mapCpu f).sched = s.sched := rfl
@[simp] theorem State.mapCpu_cycle (s : State) (f : Cpu → Cpu) : (s.mapCpu f).cycle = s.cycle := rfl
@[simp] theorem State.mapCpu_history (s : State) (f : Cpu → Cpu) : (s.mapCpu f).history = s.history := rfl
@[simp] theorem State.mapCpu_sink (s : State) (f : Cpu → Cpu) : (s.mapCpu f).sink = s.sink := rfl

/-! ## The cycle index -/

@[simp] theorem State.tickCycle_config (s : State)  : (s.tickCycle).config = s.config := rfl
@[simp] theorem State.tickCycle_clock (s : State)  : (s.tickCycle).clock = s.clock := rfl
@[simp] theorem State.tickCycle_bus (s : State)  : (s.tickCycle).bus = s.bus := rfl
@[simp] theorem State.tickCycle_cpu (s : State)  : (s.tickCycle).cpu = s.cpu := rfl
@[simp] theorem State.tickCycle_chips (s : State)  : (s.tickCycle).chips = s.chips := rfl
@[simp] theorem State.tickCycle_sched (s : State)  : (s.tickCycle).sched = s.sched := rfl
@[simp] theorem State.tickCycle_cycle (s : State)  : (s.tickCycle).cycle = s.cycle + 1 := rfl
@[simp] theorem State.tickCycle_history (s : State)  : (s.tickCycle).history = s.history := rfl
@[simp] theorem State.tickCycle_sink (s : State)  : (s.tickCycle).sink = s.sink := rfl
@[simp] theorem State.setCycle_config (s : State) (k : Nat) : (s.setCycle k).config = s.config := rfl
@[simp] theorem State.setCycle_clock (s : State) (k : Nat) : (s.setCycle k).clock = s.clock := rfl
@[simp] theorem State.setCycle_bus (s : State) (k : Nat) : (s.setCycle k).bus = s.bus := rfl
@[simp] theorem State.setCycle_cpu (s : State) (k : Nat) : (s.setCycle k).cpu = s.cpu := rfl
@[simp] theorem State.setCycle_chips (s : State) (k : Nat) : (s.setCycle k).chips = s.chips := rfl
@[simp] theorem State.setCycle_sched (s : State) (k : Nat) : (s.setCycle k).sched = s.sched := rfl
@[simp] theorem State.setCycle_cycle (s : State) (k : Nat) : (s.setCycle k).cycle = k := rfl
@[simp] theorem State.setCycle_history (s : State) (k : Nat) : (s.setCycle k).history = s.history := rfl
@[simp] theorem State.setCycle_sink (s : State) (k : Nat) : (s.setCycle k).sink = s.sink := rfl

/-! ## The access history -/

@[simp] theorem State.record_config (s : State) (r : AccessRecord) : (s.record r).config = s.config := rfl
@[simp] theorem State.record_clock (s : State) (r : AccessRecord) : (s.record r).clock = s.clock := rfl
@[simp] theorem State.record_bus (s : State) (r : AccessRecord) : (s.record r).bus = s.bus := rfl
@[simp] theorem State.record_cpu (s : State) (r : AccessRecord) : (s.record r).cpu = s.cpu := rfl
@[simp] theorem State.record_chips (s : State) (r : AccessRecord) : (s.record r).chips = s.chips := rfl
@[simp] theorem State.record_sched (s : State) (r : AccessRecord) : (s.record r).sched = s.sched := rfl
@[simp] theorem State.record_cycle (s : State) (r : AccessRecord) : (s.record r).cycle = s.cycle := rfl
@[simp] theorem State.record_history (s : State) (r : AccessRecord) : (s.record r).history = s.history ++ [r] := rfl
@[simp] theorem State.record_sink (s : State) (r : AccessRecord) : (s.record r).sink = s.sink := rfl

/-! ## A chip -/

@[simp] theorem State.setChip_config (s : State) (i : Nat) (c : Chip) : (s.setChip i c).config = s.config := rfl
@[simp] theorem State.setChip_clock (s : State) (i : Nat) (c : Chip) : (s.setChip i c).clock = s.clock := rfl
@[simp] theorem State.setChip_bus (s : State) (i : Nat) (c : Chip) : (s.setChip i c).bus = s.bus := rfl
@[simp] theorem State.setChip_cpu (s : State) (i : Nat) (c : Chip) : (s.setChip i c).cpu = s.cpu := rfl
@[simp] theorem State.setChip_chips (s : State) (i : Nat) (c : Chip) : (s.setChip i c).chips = s.chips.set i c := rfl
@[simp] theorem State.setChip_sched (s : State) (i : Nat) (c : Chip) : (s.setChip i c).sched = s.sched := rfl
@[simp] theorem State.setChip_cycle (s : State) (i : Nat) (c : Chip) : (s.setChip i c).cycle = s.cycle := rfl
@[simp] theorem State.setChip_history (s : State) (i : Nat) (c : Chip) : (s.setChip i c).history = s.history := rfl
@[simp] theorem State.setChip_sink (s : State) (i : Nat) (c : Chip) : (s.setChip i c).sink = s.sink := rfl

/-! ## A store byte -/

@[simp] theorem State.storeWrite_config (s : State) (id off : Nat) (v : Byte) : (s.storeWrite id off v).config = s.config := rfl
@[simp] theorem State.storeWrite_clock (s : State) (id off : Nat) (v : Byte) : (s.storeWrite id off v).clock = s.clock := rfl
@[simp] theorem State.storeWrite_cpu (s : State) (id off : Nat) (v : Byte) : (s.storeWrite id off v).cpu = s.cpu := rfl
@[simp] theorem State.storeWrite_chips (s : State) (id off : Nat) (v : Byte) : (s.storeWrite id off v).chips = s.chips := rfl
@[simp] theorem State.storeWrite_sched (s : State) (id off : Nat) (v : Byte) : (s.storeWrite id off v).sched = s.sched := rfl
@[simp] theorem State.storeWrite_cycle (s : State) (id off : Nat) (v : Byte) : (s.storeWrite id off v).cycle = s.cycle := rfl
@[simp] theorem State.storeWrite_history (s : State) (id off : Nat) (v : Byte) : (s.storeWrite id off v).history = s.history := rfl
@[simp] theorem State.storeWrite_sink (s : State) (id off : Nat) (v : Byte) : (s.storeWrite id off v).sink = s.sink := rfl
@[simp] theorem State.storeWrite_maps (s : State) (id off : Nat) (v : Byte) :
    (s.storeWrite id off v).bus.maps = s.bus.maps := rfl
@[simp] theorem State.storeWrite_stores (s : State) (id off : Nat) (v : Byte) :
    (s.storeWrite id off v).bus.stores = storesWrite s.bus.stores id off v := rfl
@[simp] theorem State.storeWrite_pendingSwitches (s : State) (id off : Nat) (v : Byte) :
    (s.storeWrite id off v).bus.pendingSwitches = s.bus.pendingSwitches := rfl
@[simp] theorem State.storeWrite_pendingExternal (s : State) (id off : Nat) (v : Byte) :
    (s.storeWrite id off v).bus.pendingExternal = s.bus.pendingExternal := rfl

/-! ## A fault -/

@[simp] theorem State.raise_config (s : State) (f : Fault) : (s.raise f).config = s.config := rfl
@[simp] theorem State.raise_clock (s : State) (f : Fault) : (s.raise f).clock = s.clock := rfl
@[simp] theorem State.raise_bus (s : State) (f : Fault) : (s.raise f).bus = s.bus := rfl
@[simp] theorem State.raise_cpu (s : State) (f : Fault) : (s.raise f).cpu = s.cpu := rfl
@[simp] theorem State.raise_chips (s : State) (f : Fault) : (s.raise f).chips = s.chips := rfl
@[simp] theorem State.raise_cycle (s : State) (f : Fault) : (s.raise f).cycle = s.cycle := rfl
@[simp] theorem State.raise_history (s : State) (f : Fault) : (s.raise f).history = s.history := rfl
@[simp] theorem State.raise_sink (s : State) (f : Fault) : (s.raise f).sink = s.sink := rfl
@[simp] theorem State.raise_run (s : State) (f : Fault) : (s.raise f).sched.run = s.sched.run := rfl
@[simp] theorem State.raise_stalls (s : State) (f : Fault) : (s.raise f).sched.stalls = s.sched.stalls := rfl
@[simp] theorem State.raise_irqRes (s : State) (f : Fault) : (s.raise f).sched.irqRes = s.sched.irqRes := rfl
@[simp] theorem State.raise_nmiRes (s : State) (f : Fault) : (s.raise f).sched.nmiRes = s.sched.nmiRes := rfl
@[simp] theorem State.raise_hostReq (s : State) (f : Fault) : (s.raise f).sched.hostReq = s.sched.hostReq := rfl
@[simp] theorem State.raise_fault (s : State) (f : Fault) : (s.raise f).sched.fault = some f := rfl

/-! ## A chip's reaction -/

@[simp] theorem State.react_config (s : State) (i base : Nat) (c : Chip) (r : Reaction) :
    (s.react i base c r).config = s.config := rfl
@[simp] theorem State.react_clock (s : State) (i base : Nat) (c : Chip) (r : Reaction) :
    (s.react i base c r).clock = s.clock := rfl
@[simp] theorem State.react_cpu (s : State) (i base : Nat) (c : Chip) (r : Reaction) :
    (s.react i base c r).cpu = s.cpu := rfl
@[simp] theorem State.react_cycle (s : State) (i base : Nat) (c : Chip) (r : Reaction) :
    (s.react i base c r).cycle = s.cycle := rfl
@[simp] theorem State.react_history (s : State) (i base : Nat) (c : Chip) (r : Reaction) :
    (s.react i base c r).history = s.history := rfl
@[simp] theorem State.react_chips (s : State) (i base : Nat) (c : Chip) (r : Reaction) :
    (s.react i base c r).chips = s.chips.set i (chipWithCore r.core c) := rfl
@[simp] theorem State.react_maps (s : State) (i base : Nat) (c : Chip) (r : Reaction) :
    (s.react i base c r).bus.maps = s.bus.maps := rfl
@[simp] theorem State.react_stores (s : State) (i base : Nat) (c : Chip) (r : Reaction) :
    (s.react i base c r).bus.stores = s.bus.stores := rfl
@[simp] theorem State.react_pendingExternal (s : State) (i base : Nat) (c : Chip) (r : Reaction) :
    (s.react i base c r).bus.pendingExternal = s.bus.pendingExternal := rfl
@[simp] theorem State.react_pendingSwitches (s : State) (i base : Nat) (c : Chip) (r : Reaction) :
    (s.react i base c r).bus.pendingSwitches
      = s.bus.pendingSwitches ++ emittedSwitches s.config.bankTables.length base r.switches := rfl
@[simp] theorem State.react_run (s : State) (i base : Nat) (c : Chip) (r : Reaction) :
    (s.react i base c r).sched.run = s.sched.run := rfl
@[simp] theorem State.react_irqRes (s : State) (i base : Nat) (c : Chip) (r : Reaction) :
    (s.react i base c r).sched.irqRes = s.sched.irqRes := rfl
@[simp] theorem State.react_nmiRes (s : State) (i base : Nat) (c : Chip) (r : Reaction) :
    (s.react i base c r).sched.nmiRes = s.sched.nmiRes := rfl
@[simp] theorem State.react_hostReq (s : State) (i base : Nat) (c : Chip) (r : Reaction) :
    (s.react i base c r).sched.hostReq = s.sched.hostReq := rfl
@[simp] theorem State.react_fault (s : State) (i base : Nat) (c : Chip) (r : Reaction) :
    (s.react i base c r).sched.fault = s.sched.fault := rfl
@[simp] theorem State.react_stalls (s : State) (i base : Nat) (c : Chip) (r : Reaction) :
    (s.react i base c r).sched.stalls = s.sched.stalls ++ emittedStalls i base r.stalls := rfl

/-! ## Reading through an update -/

@[simp] theorem State.target_mapCpu (s : State) (f : Cpu → Cpu) (a : Word) :
    (s.mapCpu f).target a = s.target a := rfl
@[simp] theorem State.target_tickCycle (s : State) (a : Word) : s.tickCycle.target a = s.target a := rfl
@[simp] theorem State.target_record (s : State) (r : AccessRecord) (a : Word) :
    (s.record r).target a = s.target a := rfl
@[simp] theorem State.target_storeWrite (s : State) (id off : Nat) (v : Byte) (a : Word) :
    (s.storeWrite id off v).target a = s.target a := rfl
@[simp] theorem State.storeByte_mapCpu (s : State) (f : Cpu → Cpu) (id off : Nat) :
    (s.mapCpu f).storeByte id off = s.storeByte id off := rfl
@[simp] theorem State.storeByte_tickCycle (s : State) (id off : Nat) :
    s.tickCycle.storeByte id off = s.storeByte id off := rfl
@[simp] theorem State.storeByte_record (s : State) (r : AccessRecord) (id off : Nat) :
    (s.record r).storeByte id off = s.storeByte id off := rfl

/-! ## Flag updates of the CPU -/

@[simp] theorem Cpu.setNZ_a (v : Byte) (c : Cpu) : (c.setNZ v).a = c.a := rfl
@[simp] theorem Cpu.setNZ_x (v : Byte) (c : Cpu) : (c.setNZ v).x = c.x := rfl
@[simp] theorem Cpu.setNZ_y (v : Byte) (c : Cpu) : (c.setNZ v).y = c.y := rfl
@[simp] theorem Cpu.setNZ_s (v : Byte) (c : Cpu) : (c.setNZ v).s = c.s := rfl
@[simp] theorem Cpu.setNZ_pc (v : Byte) (c : Cpu) : (c.setNZ v).pc = c.pc := rfl
@[simp] theorem Cpu.setNZ_flagN (v : Byte) (c : Cpu) : (c.setNZ v).flagN = v.msb := rfl
@[simp] theorem Cpu.setNZ_flagZ (v : Byte) (c : Cpu) : (c.setNZ v).flagZ = (v == 0#8) := rfl
@[simp] theorem Cpu.setNZ_flagC (v : Byte) (c : Cpu) : (c.setNZ v).flagC = c.flagC := rfl
@[simp] theorem Cpu.setNZ_flagV (v : Byte) (c : Cpu) : (c.setNZ v).flagV = c.flagV := rfl
@[simp] theorem Cpu.setNZ_flagD (v : Byte) (c : Cpu) : (c.setNZ v).flagD = c.flagD := rfl
@[simp] theorem Cpu.setNZ_flagI (v : Byte) (c : Cpu) : (c.setNZ v).flagI = c.flagI := rfl

end Sys2Proof.Machine
end

