-- ==== Sys2Proof/Laws/Bus.lean ====
section
/-! SUPPORT. What one bus access can do, said once: in a production machine it always completes, a read
leaves everything of `ReadFrame`, a write everything of `WriteFrame`. -/

namespace Sys2Proof.Machine

/-! ## Frames compose -/

/-- The mapping table decides what an address selects, so states of one table agree on it. -/
theorem BusOnly.target {s t : State} (h : BusOnly s t) (a : Word) : t.target a = s.target a := by
  rw [State.target, State.target, h.maps]

/-- Nothing is left alone by doing nothing. -/
theorem BusOnly.refl (s : State) : BusOnly s s :=
  ⟨rfl, rfl, rfl, rfl, rfl, rfl, rfl, rfl, rfl, fun _ => ⟨rfl, rfl, rfl, rfl⟩⟩

/-- Having no window depends on the mapping table alone. -/
theorem BusOnly.noWindows {s t : State} (h : BusOnly s t) (hs : s.noWindows) : t.noWindows := by
  rw [State.noWindows, h.maps]; exact hs

/-- What two parts in sequence leave alone. -/
theorem BusOnly.trans {s t u : State} (h : BusOnly s t) (k : BusOnly t u) : BusOnly s u where
  config := k.config.trans h.config
  clock := k.clock.trans h.clock
  maps := k.maps.trans h.maps
  external := k.external.trans h.external
  run := k.run.trans h.run
  hostReq := k.hostReq.trans h.hostReq
  irqRes := k.irqRes.trans h.irqRes
  nmiRes := k.nmiRes.trans h.nmiRes
  fault := k.fault.trans h.fault
  quiet hw := by
    obtain ⟨a1, a2, a3, a4⟩ := h.quiet hw
    obtain ⟨b1, b2, b3, b4⟩ := k.quiet (h.noWindows hw)
    exact ⟨b1.trans a1, b2.trans a2, b3.trans a3, b4.trans a4⟩

/-- Doing nothing reads nothing. -/
theorem ReadFrame.refl (s : State) : ReadFrame s s := ⟨BusOnly.refl s, rfl, rfl⟩

/-- Two parts that only read. -/
theorem ReadFrame.trans {s t u : State} (h : ReadFrame s t) (k : ReadFrame t u) : ReadFrame s u :=
  ⟨h.others.trans k.others, k.cpu.trans h.cpu, k.stores.trans h.stores⟩

/-- Reading changes no byte of a store. -/
theorem ReadFrame.storeByte {s t : State} (h : ReadFrame s t) (id off : Nat) :
    t.storeByte id off = s.storeByte id off := by
  rw [State.storeByte, State.storeByte, h.stores]

/-- Reading keeps the canonical form. -/
theorem ReadFrame.canonical {s t : State} (h : ReadFrame s t) (hc : s.canonical) : t.canonical := by
  rw [State.canonical, h.stores]; exact hc

/-- A production machine stays one. -/
theorem BusOnly.production {s t : State} (h : BusOnly s t) (hp : s.production) : t.production := by
  rw [State.production, h.config]; exact hp

/-- Only reading stores nothing. -/
theorem ReadFrame.writeFrame {s t : State} (h : ReadFrame s t) (hc : s.canonical) :
    WriteFrame s [] t :=
  ⟨h.others, h.storeByte, fun id => by rw [State.hasStore, State.hasStore, h.stores], h.canonical hc⟩

/-- The byte after two lists of writes, one after the other. -/
theorem WriteFrame.byteAfter {s t : State} {ws : List (Word × Byte)} (h : WriteFrame s ws t)
    (vs : List (Word × Byte)) (id off : Nat) : t.byteAfter vs id off = s.byteAfter (ws ++ vs) id off := by
  simp only [State.byteAfter, List.foldl_append, h.others.target, h.ids]
  rw [h.bytes id off, State.byteAfter]

/-- Two parts in sequence store both lists of writes. -/
theorem WriteFrame.trans {s t u : State} {ws vs : List (Word × Byte)} (h : WriteFrame s ws t)
    (k : WriteFrame t vs u) : WriteFrame s (ws ++ vs) u :=
  ⟨h.others.trans k.others, fun id off => (k.bytes id off).trans (h.byteAfter vs id off),
    fun id => (k.ids id).trans (h.ids id), k.canonical⟩

/-- A read after writes, seen from the state before them. -/
theorem WriteFrame.readsAfter {s t : State} {ws vs : List (Word × Byte)} (h : WriteFrame s ws t)
    {a : Word} {v : Byte} (k : t.ReadsAfter vs a v) : s.ReadsAfter (ws ++ vs) a v := by
  unfold State.ReadsAfter at k ⊢
  rw [h.others.target] at k
  split <;> rename_i heq <;> simp only [heq] at k
  · rw [k, h.byteAfter]
  · trivial
  · rw [k, h.others.config]

/-- A read after only reading, seen from the state before. -/
theorem ReadFrame.readsAfter {s t : State} (h : ReadFrame s t) {vs : List (Word × Byte)}
    {a : Word} {v : Byte} (k : t.ReadsAfter vs a v) : s.ReadsAfter vs a v := by
  have hb : ∀ id off, t.byteAfter vs id off = s.byteAfter vs id off := fun id off => by
    have hs : ∀ id, t.hasStore id = s.hasStore id := fun id => by rw [State.hasStore, State.hasStore, h.stores]
    simp only [State.byteAfter, h.others.target, hs, h.storeByte]
  unfold State.ReadsAfter at k ⊢
  rw [h.others.target] at k
  split <;> rename_i heq <;> simp only [heq] at k
  · rw [k, hb]
  · trivial
  · rw [k, h.others.config]

/-! ## Chip windows -/

/-- Only a window leads to a chip. -/
theorem target_chip {maps : List Mapping} {a : Word} {i off : Nat} (h : target maps a = .chip i off) :
    ∃ m ∈ maps, m.kind = .ioWindow := by
  unfold target at h
  split at h
  · exact absurd h (by simp)
  · rename_i m hm
    refine ⟨m, List.mem_of_find?_eq_some hm, ?_⟩
    revert h
    cases m.kind <;> simp

/-- A register read is the business of the chip that owns the window: no store, no CPU field and nothing
else of `ReadFrame` but the window's chip, the queues and the sinks. -/
theorem registerRead_frame (i off t : Nat) (s : State) (hw : ¬ s.noWindows) :
    ReadFrame s (registerRead i off t s).2 ∧ (registerRead i off t s).2.cycle = s.cycle
      ∧ (registerRead i off t s).2.history = s.history := by
  unfold registerRead
  split
  · exact ⟨ReadFrame.refl s, rfl, rfl⟩
  · exact ⟨⟨⟨rfl, rfl, rfl, rfl, rfl, rfl, rfl, rfl, rfl, fun h => absurd h hw⟩, rfl, rfl⟩, rfl, rfl⟩
  · exact ⟨⟨⟨rfl, rfl, rfl, rfl, rfl, rfl, rfl, rfl, rfl, fun h => absurd h hw⟩, rfl, rfl⟩, rfl, rfl⟩

/-- The same of a register write. -/
theorem registerWrite_frame (i off t : Nat) (v : Byte) (s : State) (hw : ¬ s.noWindows) :
    ReadFrame s (registerWrite i off t v s) ∧ (registerWrite i off t v s).cycle = s.cycle
      ∧ (registerWrite i off t v s).history = s.history := by
  unfold registerWrite
  split
  · exact ⟨ReadFrame.refl s, rfl, rfl⟩
  · exact ⟨⟨⟨rfl, rfl, rfl, rfl, rfl, rfl, rfl, rfl, rfl, fun h => absurd h hw⟩, rfl, rfl⟩, rfl, rfl⟩
  · exact ⟨⟨⟨rfl, rfl, rfl, rfl, rfl, rfl, rfl, rfl, rfl, fun h => absurd h hw⟩, rfl, rfl⟩, rfl, rfl⟩

/-! ## Bus accesses -/

/-- What a completed read is: it changes nothing of `ReadFrame`, gives the byte of R160, and leaves its
record as the last of the history. -/
structure BusRead (s : State) (r : AccessRecord) (t : State) : Prop where
  frame : ReadFrame s t
  value : s.ReadsAfter [] r.addr r.value
  cycle : t.cycle = s.cycle
  history : t.history = s.history ++ [r]

/-- What a completed write is: it stores its byte, keeps the CPU, and leaves its record. -/
structure BusWrite (s : State) (r : AccessRecord) (t : State) : Prop where
  frame : WriteFrame s [(r.addr, r.value)] t
  cpu : t.cpu = s.cpu
  cycle : t.cycle = s.cycle
  history : t.history = s.history ++ [r]

/-- A record changes nothing that matters to a frame. -/
theorem ReadFrame.record (s : State) (r : AccessRecord) : ReadFrame s (s.record r) :=
  ⟨⟨rfl, rfl, rfl, rfl, rfl, rfl, rfl, rfl, rfl, fun _ => ⟨rfl, rfl, rfl, rfl⟩⟩, rfl, rfl⟩

/-- Nor does a cycle. -/
theorem ReadFrame.tickCycle (s : State) : ReadFrame s s.tickCycle :=
  ⟨⟨rfl, rfl, rfl, rfl, rfl, rfl, rfl, rfl, rfl, fun _ => ⟨rfl, rfl, rfl, rfl⟩⟩, rfl, rfl⟩

/-- A read of a production machine completes (R160). -/
theorem busRead_ok {s : State} (h : s.production) (p : Performer) (kind : AccessKind) (t : Nat) (a : Word) :
    ∃ v s', busRead p kind t a s = .ok v s' ∧ BusRead s ⟨.read, a, v, kind, t, p⟩ s' := by
  unfold busRead
  split
  · rename_i k id off hk
    exact ⟨_, _, rfl, ReadFrame.record .., by simp [State.ReadsAfter, hk, State.byteAfter], rfl, rfl⟩
  · rename_i i off hk
    have hw : ¬ s.noWindows := fun hn => by
      obtain ⟨m, hm, hkind⟩ := target_chip hk
      exact hn m hm hkind
    obtain ⟨hf, hc, hh⟩ := registerRead_frame i off t s hw
    refine ⟨_, _, rfl, hf.trans (ReadFrame.record ..), by simp [State.ReadsAfter, hk], hc, ?_⟩
    simp [hh]
  · rename_i hk
    rw [if_neg (by rw [h]; simp)]
    exact ⟨_, _, rfl, ReadFrame.record .., by simp [State.ReadsAfter, hk], rfl, rfl⟩

/-- A write of a production machine completes (R161). -/
theorem busWrite_ok {s : State} (h : s.production) (hc : s.canonical) (p : Performer) (kind : AccessKind)
    (t : Nat) (a : Word) (v : Byte) :
    ∃ s', busWrite p kind t a v s = .ok () s' ∧ BusWrite s ⟨.write, a, v, kind, t, p⟩ s' := by
  unfold busWrite
  simp only
  have keep : ∀ {u : State}, ReadFrame s u → (∀ id off, s.target a ≠ .store .ram id off) →
      WriteFrame s [(a, v)] u := fun hf hk =>
    ⟨hf.others, fun id off => by simp [State.byteAfter, hk id off, hf.storeByte],
      fun id => by rw [State.hasStore, State.hasStore, hf.stores], hf.canonical hc⟩
  split
  · rename_i id off hk
    refine ⟨_, rfl, ⟨⟨rfl, rfl, rfl, rfl, rfl, rfl, rfl, rfl, rfl, fun _ => ⟨rfl, rfl, rfl, rfl⟩⟩, ?_, ?_, ?_⟩,
      rfl, rfl, rfl⟩
    · intro id' off'
      have := storesRead_write id off id' off' v hc
      simp only [State.byteAfter, List.foldl_cons, List.foldl_nil, hk, State.storeByte_record]
      simp only [State.storeByte, State.storeWrite_stores, this, State.hasStore, Target.store.injEq,
        true_and]
      by_cases h1 : id' = id
      · subst h1; by_cases h2 : off' = off
        · subst h2; simp
        · simp [h2, Ne.symm h2]
      · simp [h1, Ne.symm h1]
    · intro id'
      exact storesWrite_any id off v id' s.bus.stores
    · exact storesWrite_wf id off v hc
  · rename_i id off hk
    exact ⟨_, rfl, keep (ReadFrame.record ..) (fun _ _ => by simp [hk]), rfl, rfl, rfl⟩
  · rename_i i off hk
    have hw : ¬ s.noWindows := fun hn => by
      obtain ⟨m, hm, hkind⟩ := target_chip hk
      exact hn m hm hkind
    obtain ⟨hf, hcy, hh⟩ := registerWrite_frame i off t v s hw
    have hf' := hf.trans (ReadFrame.record (registerWrite i off t v s) ⟨.write, a, v, kind, t, p⟩)
    refine ⟨_, rfl, keep hf' (fun _ _ => by simp [hk]), hf'.cpu, hcy, ?_⟩
    simp [hh]
  · rename_i hk
    rw [if_neg (by rw [h]; simp)]
    exact ⟨_, rfl, keep (ReadFrame.record ..) (fun _ _ => by simp [hk]), rfl, rfl, rfl⟩

/-- A faulting access changes nothing (R905): it is one to an unmapped address of a validation build. -/
theorem busRead_error {s s' : State} {p : Performer} {kind : AccessKind} {t : Nat} {a : Word} {f : Fault}
    (h : busRead p kind t a s = .error f s') :
    s' = s ∧ f = .unmappedAddressError .read a t ∧ s.target a = .unmapped ∧ s.config.validateBus = true := by
  unfold busRead at h
  split at h
  · simp at h
  · simp at h
  · split at h
    · simp only [EStateM.Result.error.injEq] at h
      exact ⟨h.2.symm, h.1.symm, ‹_›, ‹_›⟩
    · simp at h

/-- The same of a write. -/
theorem busWrite_error {s s' : State} {p : Performer} {kind : AccessKind} {t : Nat} {a : Word} {v : Byte}
    {f : Fault} (h : busWrite p kind t a v s = .error f s') :
    s' = s ∧ f = .unmappedAddressError .write a t ∧ s.target a = .unmapped
      ∧ s.config.validateBus = true := by
  unfold busWrite at h
  simp only at h
  split at h
  · simp at h
  · simp at h
  · simp at h
  · split at h
    · simp only [EStateM.Result.error.injEq] at h
      exact ⟨h.2.symm, h.1.symm, ‹_›, ‹_›⟩
    · simp at h

end Sys2Proof.Machine
end

