-- ==== Sys2Proof/Laws/Ops.lean ====
section
/-! SUPPORT. What each shared operation of the CPU can do, said once. `Completes p s Q` says that the part
`p` of a step completes from `s` and that what it gives satisfies `Q`. -/

namespace Sys2Proof.Machine

/-! ## Parts of a step -/

/-- `p` completes from `s`, with a value and a state that satisfy `Q`. -/
def Completes {α : Type} (p : M α) (s : State) (Q : α → State → Prop) : Prop :=
  ∃ a t, p s = .ok a t ∧ Q a t

/-- A sequence runs its first part, and the second where the first completes. -/
theorem bind_apply {α β : Type} (p : M α) (f : α → M β) (s : State) :
    (p >>= f) s = match p s with
      | .ok a t => f a t
      | .error e t => .error e t := by
  show EStateM.bind p f s = _
  unfold EStateM.bind
  cases p s <;> rfl

/-- A sequence whose first part is known. -/
theorem bind_ok {α β : Type} {p : M α} {s t : State} {a : α} (h : p s = .ok a t) (f : α → M β) :
    (p >>= f) s = f a t := by rw [bind_apply, h]

/-- A sequence completes where its parts do. -/
theorem Completes.bind {α β : Type} {p : M α} {f : α → M β} {s : State} {Q : α → State → Prop}
    {R : β → State → Prop} (h : Completes p s Q) (k : ∀ a t, Q a t → Completes (f a) t R) :
    Completes (p >>= f) s R := by
  obtain ⟨a, t, hp, hq⟩ := h
  obtain ⟨b, u, hf, hr⟩ := k a t hq
  exact ⟨b, u, by rw [bind_ok hp, hf], hr⟩

/-- A weaker postcondition. -/
theorem Completes.mono {α : Type} {p : M α} {s : State} {Q R : α → State → Prop} (h : Completes p s Q)
    (k : ∀ a t, Q a t → R a t) : Completes p s R := by
  obtain ⟨a, t, hp, hq⟩ := h
  exact ⟨a, t, hp, k a t hq⟩

/-- A value. -/
theorem Completes.pure {α : Type} {a : α} {s : State} {Q : α → State → Prop} (h : Q a s) :
    Completes (Pure.pure a : M α) s Q := ⟨a, s, rfl, h⟩

/-- The CPU record. -/
theorem Completes.getCpu {s : State} {Q : Cpu → State → Prop} (h : Q s.cpu s) :
    Completes Machine.getCpu s Q := ⟨_, s, rfl, h⟩

/-- The configuration. -/
theorem Completes.getConfig {s : State} {Q : MachineConfig → State → Prop} (h : Q s.config s) :
    Completes Machine.getConfig s Q := ⟨_, s, rfl, h⟩

/-- A change of the CPU. -/
theorem Completes.updCpu {f : Cpu → Cpu} {s : State} {Q : Unit → State → Prop} (h : Q () (s.mapCpu f)) :
    Completes (Machine.updCpu f) s Q := ⟨(), _, rfl, h⟩

/-- An instruction whose part completes answers its state. -/
theorem outcome_of_completes {p : M Unit} {s : State} {Q : Unit → State → Prop} (h : Completes p s Q) :
    ∃ t, outcome p s = .next t ∧ Q () t := by
  obtain ⟨⟨⟩, t, hp, hq⟩ := h
  exact ⟨t, by rw [outcome, hp], hq⟩

/-- An instruction whose part completes with a known state. -/
theorem outcome_ok {p : M Unit} {s t : State} (h : p s = .ok () t) : outcome p s = .next t := by
  rw [outcome, h]

/-- Every meaning answers a next state. -/
theorem outcome_next (p : M Unit) (s : State) : ∃ t, outcome p s = .next t := by
  unfold outcome; split <;> exact ⟨_, rfl⟩

/-! ## What a completed part did -/

/-- Nothing done. -/
theorem RanReads.refl (s : State) : RanReads s [] s := ⟨ReadFrame.refl s, rfl, by simp⟩

/-- Reading, then reading. -/
theorem RanReads.trans {s t u : State} {r q : List AccessRecord} (h : RanReads s r t)
    (k : RanReads t q u) : RanReads s (r ++ q) u :=
  ⟨h.frame.trans k.frame, by rw [k.cycle, h.cycle, List.length_append]; omega,
    by rw [k.history, h.history, List.append_assoc]⟩

/-- Only reading, as a part that stores nothing. -/
theorem RanReads.ran {s t : State} {r : List AccessRecord} (h : RanReads s r t) (hc : s.canonical) :
    Ran s [] r s.cpu t := ⟨h.frame.writeFrame hc, h.cycle, h.history, h.frame.cpu⟩

/-- Nothing done. -/
theorem Ran.refl {s : State} (hc : s.canonical) : Ran s [] [] s.cpu s := (RanReads.refl s).ran hc

/-- One part after the other. -/
theorem Ran.trans {s t u : State} {ws vs : List (Word × Byte)} {r q : List AccessRecord} {c d : Cpu}
    (h : Ran s ws r c t) (k : Ran t vs q d u) : Ran s (ws ++ vs) (r ++ q) d u :=
  ⟨h.frame.trans k.frame, by rw [k.cycle, h.cycle, List.length_append]; omega,
    by rw [k.history, h.history, List.append_assoc], k.cpu⟩

/-- A change of the CPU after a part. -/
theorem Ran.mapCpu {s t : State} {ws : List (Word × Byte)} {r : List AccessRecord} {c : Cpu}
    (h : Ran s ws r c t) (f : Cpu → Cpu) : Ran s ws r (f c) (t.mapCpu f) :=
  ⟨⟨⟨h.frame.others.config, h.frame.others.clock, h.frame.others.maps, h.frame.others.external,
      h.frame.others.run, h.frame.others.hostReq, h.frame.others.irqRes, h.frame.others.nmiRes,
      h.frame.others.fault, h.frame.others.quiet⟩, h.frame.bytes, h.frame.ids, h.frame.canonical⟩,
    h.cycle, h.history, by rw [State.mapCpu_cpu, h.cpu]⟩

/-- The cycle at which the next access of a part happens. -/
theorem Ran.now {s t : State} {ws : List (Word × Byte)} {r : List AccessRecord} {c : Cpu}
    (h : Ran s ws r c t) : t.clock + t.cycle = s.clock + s.cycle + r.length := by
  rw [h.frame.others.clock, h.cycle]; omega

/-- The cycle at which the next access happens, after only reading. -/
theorem RanReads.now {s t : State} {r : List AccessRecord} (h : RanReads s r t) :
    t.clock + t.cycle = s.clock + s.cycle + r.length := by
  rw [h.frame.others.clock, h.cycle]; omega

/-! ## Accesses of the CPU -/

/-- `MemRead` of the CPU (R160). -/
theorem memRead_completes {s : State} (hp : s.production) (kind : AccessKind) (a : Word) :
    Completes (memRead kind a) s fun v t =>
      RanReads s [⟨.read, a, v, kind, s.clock + s.cycle, .cpu⟩] t ∧ s.ReadsAfter [] a v := by
  obtain ⟨v, t, hr, hb⟩ := busRead_ok hp .cpu kind (s.clock + s.cycle) a
  refine ⟨v, t.tickCycle, by rw [memRead, hr], ⟨hb.frame.trans (ReadFrame.tickCycle t), ?_, hb.history⟩,
    hb.value⟩
  rw [State.tickCycle_cycle, hb.cycle]; rfl

/-- `MemWrite` of the CPU (R161). -/
theorem memWrite_completes {s : State} (hp : s.production) (hc : s.canonical) (kind : AccessKind) (a : Word)
    (v : Byte) :
    Completes (memWrite kind a v) s fun _ t =>
      Ran s [(a, v)] [⟨.write, a, v, kind, s.clock + s.cycle, .cpu⟩] s.cpu t := by
  obtain ⟨t, hr, hb⟩ := busWrite_ok hp hc .cpu kind (s.clock + s.cycle) a v
  refine ⟨(), t.tickCycle, by rw [memWrite, hr], ?_⟩
  refine ⟨⟨hb.frame.others.trans (ReadFrame.tickCycle t).others, hb.frame.bytes, hb.frame.ids,
    hb.frame.canonical⟩, ?_, hb.history, hb.cpu⟩
  rw [State.tickCycle_cycle, hb.cycle]; rfl

/-- `Dummy(addr)` (R20). -/
theorem dummyRead_completes {s : State} (hp : s.production) (a : Word) :
    Completes (dummyRead a) s fun _ t =>
      ∃ v, RanReads s [⟨.read, a, v, .dummy, s.clock + s.cycle, .cpu⟩] t ∧ s.ReadsAfter [] a v :=
  (memRead_completes hp .dummy a).bind fun v _ h => Completes.pure ⟨v, h⟩

/-- `Dummy(PC)` (R311). -/
theorem dummyPc_completes {s : State} (hp : s.production) :
    Completes dummyPc s fun _ t =>
      ∃ v, RanReads s [⟨.read, s.cpu.pc, v, .dummy, s.clock + s.cycle, .cpu⟩] t
        ∧ s.ReadsAfter [] s.cpu.pc v :=
  (Completes.getCpu (Q := fun c t => c = s.cpu ∧ t = s) ⟨rfl, rfl⟩).bind fun c t h => by
    obtain ⟨rfl, rfl⟩ := h
    exact dummyRead_completes hp _

/-- `Dummy(0x0100 + S)` (R332). -/
theorem dummyStack_completes {s : State} (hp : s.production) :
    Completes dummyStack s fun _ t =>
      ∃ v, RanReads s [⟨.read, stackAddr s.cpu.s, v, .dummy, s.clock + s.cycle, .cpu⟩] t
        ∧ s.ReadsAfter [] (stackAddr s.cpu.s) v :=
  (Completes.getCpu (Q := fun c t => c = s.cpu ∧ t = s) ⟨rfl, rfl⟩).bind fun c t h => by
    obtain ⟨rfl, rfl⟩ := h
    exact dummyRead_completes hp _

/-- A fetch of an opcode or operand byte: the byte at PC, and PC moves on (R22). -/
theorem fetchKind_completes {s : State} (hp : s.production) (hc : s.canonical) (kind : AccessKind) :
    Completes (fetchKind kind) s fun v t =>
      Ran s [] [⟨.read, s.cpu.pc, v, kind, s.clock + s.cycle, .cpu⟩] { s.cpu with pc := s.cpu.pc + 1#16 } t
        ∧ s.ReadsAfter [] s.cpu.pc v :=
  (Completes.getCpu (Q := fun c t => c = s.cpu ∧ t = s) ⟨rfl, rfl⟩).bind fun c t h => by
    obtain ⟨rfl, rfl⟩ := h
    refine (memRead_completes hp kind _).bind fun v u ⟨hr, hv⟩ => ?_
    exact (Completes.updCpu (Q := fun _ w => w = u.mapCpu _) rfl).bind fun _ w hw => by
      subst hw
      exact Completes.pure ⟨(hr.ran hc).mapCpu fun c => { c with pc := c.pc + 1#16 }, hv⟩

/-- `Push(v)` (R22): one write at the stack address, and S moves down. -/
theorem push_completes {s : State} (hp : s.production) (hc : s.canonical) (v : Byte) :
    Completes (push v) s fun _ t =>
      Ran s [(stackAddr s.cpu.s, v)] [⟨.write, stackAddr s.cpu.s, v, .stack, s.clock + s.cycle, .cpu⟩]
        { s.cpu with s := s.cpu.s - 1#8 } t :=
  (Completes.getCpu (Q := fun c t => c = s.cpu ∧ t = s) ⟨rfl, rfl⟩).bind fun c t h => by
    obtain ⟨rfl, rfl⟩ := h
    refine (memWrite_completes hp hc .stack _ v).bind fun _ u hr => ?_
    exact Completes.updCpu (hr.mapCpu fun c => { c with s := c.s - 1#8 })

/-- `Pull()` (R22): S moves up, and one read at the new stack address. -/
theorem pull_completes {s : State} (hp : s.production) (hc : s.canonical) :
    Completes pull s fun v t =>
      Ran s [] [⟨.read, stackAddr (s.cpu.s + 1#8), v, .stack, s.clock + s.cycle, .cpu⟩]
        { s.cpu with s := s.cpu.s + 1#8 } t ∧ s.ReadsAfter [] (stackAddr (s.cpu.s + 1#8)) v := by
  have h0 : Ran s [] [] { s.cpu with s := s.cpu.s + 1#8 } (s.mapCpu fun c => { c with s := c.s + 1#8 }) :=
    (Ran.refl hc).mapCpu fun c => { c with s := c.s + 1#8 }
  refine (Completes.updCpu (Q := fun _ w => w = s.mapCpu fun c => { c with s := c.s + 1#8 }) rfl).bind
    fun _ w hw => ?_
  subst hw
  refine (Completes.getCpu (Q := fun c t => c = { s.cpu with s := s.cpu.s + 1#8 }
    ∧ t = s.mapCpu fun c => { c with s := c.s + 1#8 }) ⟨rfl, rfl⟩).bind fun c t h => ?_
  obtain ⟨rfl, rfl⟩ := h
  refine (memRead_completes (h0.frame.others.production hp) .stack _).mono fun v u ⟨hr, hv⟩ => ?_
  exact ⟨h0.trans (hr.ran h0.frame.canonical), hv⟩

end Sys2Proof.Machine
end

