-- ==== Sys2Proof/Laws/Operands.lean ====
section
/-! SUPPORT. What each addressing-mode template can do, said once: the accesses it makes in order, one cycle
each, and the address or byte it gives. A read record's value is what the byte reads as (R160). -/

namespace Sys2Proof.Machine

/-- A plain byte reads as `peek` says (R160, R188). -/
theorem State.ReadsAfter.peek {s : State} {a : Word} {v : Byte} (h : s.ReadsAfter [] a v) (hp : s.plain a) :
    v = s.peek a := by
  unfold State.ReadsAfter at h
  unfold State.plain at hp
  unfold State.peek
  revert h hp
  generalize s.target a = x
  cases x <;> simp [targetStored, State.byteAfter]

/-- One read `recs.length` cycles after `s`, following accesses that only read. -/
theorem memRead_after {s t : State} {recs : List AccessRecord} (hp : s.production) (h : RanReads s recs t)
    (kind : AccessKind) (a : Word) :
    Completes (memRead kind a) t fun v u =>
      RanReads s (recs ++ [readRec s recs.length kind a v]) u ∧ s.ReadsAfter [] a v :=
  (memRead_completes (h.frame.others.production hp) kind a).mono fun v u ⟨hr, hv⟩ => by
    rw [h.now] at hr
    exact ⟨h.trans hr, h.frame.readsAfter hv⟩

/-- One dummy read, following accesses that only read. -/
theorem dummyRead_after {s t : State} {recs : List AccessRecord} (hp : s.production) (h : RanReads s recs t)
    (a : Word) :
    Completes (dummyRead a) t fun _ u =>
      ∃ v, RanReads s (recs ++ [readRec s recs.length .dummy a v]) u ∧ s.ReadsAfter [] a v :=
  (memRead_after hp h .dummy a).bind fun v _ hv => Completes.pure ⟨v, hv⟩

/-- The CPU record, following accesses that only read. -/
theorem getCpu_after {s t : State} {recs : List AccessRecord} (h : RanReads s recs t)
    {Q : Cpu → State → Prop} (k : Q s.cpu t) : Completes getCpu t Q :=
  Completes.getCpu (by rw [h.frame.cpu]; exact k)

/-! ## Effective addresses -/

/-- The accesses and the pointer of `(zp,X)` (R257, R321). -/
theorem pointerX_completes {s : State} (hp : s.production) (b1 : Byte) :
    Completes (pointerX b1) s fun p t => ∃ d lo hi, p = mkWord hi lo
      ∧ s.ReadsAfter [] (zext16 (b1 + s.cpu.x)) lo ∧ s.ReadsAfter [] (zext16 (b1 + s.cpu.x + 1#8)) hi
      ∧ RanReads s [readRec s 0 .dummy (zext16 b1) d, readRec s 1 .pointer (zext16 (b1 + s.cpu.x)) lo,
          readRec s 2 .pointer (zext16 (b1 + s.cpu.x + 1#8)) hi] t := by
  have h0 := RanReads.refl s
  refine Completes.bind (getCpu_after (Q := fun c t => c = s.cpu ∧ t = s) h0 ⟨rfl, rfl⟩) ?_
  rintro c t ⟨rfl, rfl⟩
  refine (dummyRead_after hp h0 (zext16 b1)).bind ?_
  rintro - u ⟨d, h1, -⟩
  refine (memRead_after hp h1 .pointer (zext16 (b1 + t.cpu.x))).bind ?_
  rintro lo v ⟨h2, hlo⟩
  refine (memRead_after hp h2 .pointer (zext16 (b1 + t.cpu.x + 1#8))).bind ?_
  rintro hi w ⟨h3, hhi⟩
  exact Completes.pure ⟨d, lo, hi, rfl, hlo, hhi, h3⟩

/-- The accesses and the pointer of `(zp),Y` (R258, R322). -/
theorem pointerY_completes {s : State} (hp : s.production) (b1 : Byte) :
    Completes (pointerY b1) s fun p t => ∃ lo hi, p = mkWord hi lo
      ∧ s.ReadsAfter [] (zext16 b1) lo ∧ s.ReadsAfter [] (zext16 (b1 + 1#8)) hi
      ∧ RanReads s [readRec s 0 .pointer (zext16 b1) lo, readRec s 1 .pointer (zext16 (b1 + 1#8)) hi] t := by
  have h0 := RanReads.refl s
  refine (memRead_after hp h0 .pointer (zext16 b1)).bind ?_
  rintro lo v ⟨h2, hlo⟩
  refine (memRead_after hp h2 .pointer (zext16 (b1 + 1#8))).bind ?_
  rintro hi w ⟨h3, hhi⟩
  exact Completes.pure ⟨lo, hi, rfl, hlo, hhi, h3⟩

/-- `zp` gives its address at once (R313). -/
theorem addrZp_completes (s : State) (b1 : Byte) :
    Completes (addrZp b1) s fun a t => a = zext16 b1 ∧ RanReads s [] t :=
  Completes.pure ⟨rfl, RanReads.refl s⟩

/-- `abs` gives its address at once (R315). -/
theorem addrAbs_completes (s : State) (w : Word) :
    Completes (addrAbs w) s fun a t => a = w ∧ RanReads s [] t :=
  Completes.pure ⟨rfl, RanReads.refl s⟩

/-- `zpx` reads the unindexed address first (R314). -/
theorem addrZpx_completes {s : State} (hp : s.production) (b1 : Byte) :
    Completes (addrZpx b1) s fun a t => a = zext16 (b1 + s.cpu.x)
      ∧ ∃ d, RanReads s [readRec s 0 .dummy (zext16 b1) d] t := by
  have h0 := RanReads.refl s
  refine Completes.bind (getCpu_after (Q := fun c t => c = s.cpu ∧ t = s) h0 ⟨rfl, rfl⟩) ?_
  rintro c t ⟨rfl, rfl⟩
  refine (dummyRead_after hp h0 (zext16 b1)).bind ?_
  rintro - u ⟨d, h1, -⟩
  exact Completes.pure ⟨rfl, d, h1⟩

/-- `zpy` reads the unindexed address first (R314). -/
theorem addrZpy_completes {s : State} (hp : s.production) (b1 : Byte) :
    Completes (addrZpy b1) s fun a t => a = zext16 (b1 + s.cpu.y)
      ∧ ∃ d, RanReads s [readRec s 0 .dummy (zext16 b1) d] t := by
  have h0 := RanReads.refl s
  refine Completes.bind (getCpu_after (Q := fun c t => c = s.cpu ∧ t = s) h0 ⟨rfl, rfl⟩) ?_
  rintro c t ⟨rfl, rfl⟩
  refine (dummyRead_after hp h0 (zext16 b1)).bind ?_
  rintro - u ⟨d, h1, -⟩
  exact Completes.pure ⟨rfl, d, h1⟩

/-- An indexed address of a write reads the unfixed address first (R320, R331). -/
theorem addrIndexed_after {s t : State} {recs : List AccessRecord} (hp : s.production)
    (h : RanReads s recs t) (ix : Indexed) :
    Completes (addrIndexed ix) t fun a u => a = ix.ea
      ∧ ∃ d, RanReads s (recs ++ [readRec s recs.length .dummy ix.unfixed d]) u := by
  refine (dummyRead_after hp h ix.unfixed).bind ?_
  rintro - u ⟨d, h1, -⟩
  exact Completes.pure ⟨rfl, d, h1⟩

/-- `absx` of a write (R320). -/
theorem addrAbsx_completes {s : State} (hp : s.production) (w : Word) :
    Completes (addrAbsx w) s fun a t => a = w + zext16 s.cpu.x
      ∧ ∃ d, RanReads s [readRec s 0 .dummy (indexed w s.cpu.x).unfixed d] t := by
  have h0 := RanReads.refl s
  refine Completes.bind (getCpu_after (Q := fun c t => c = s.cpu ∧ t = s) h0 ⟨rfl, rfl⟩) ?_
  rintro c t ⟨rfl, rfl⟩
  exact addrIndexed_after hp h0 _

/-- `absy` of a write (R320). -/
theorem addrAbsy_completes {s : State} (hp : s.production) (w : Word) :
    Completes (addrAbsy w) s fun a t => a = w + zext16 s.cpu.y
      ∧ ∃ d, RanReads s [readRec s 0 .dummy (indexed w s.cpu.y).unfixed d] t := by
  have h0 := RanReads.refl s
  refine Completes.bind (getCpu_after (Q := fun c t => c = s.cpu ∧ t = s) h0 ⟨rfl, rfl⟩) ?_
  rintro c t ⟨rfl, rfl⟩
  exact addrIndexed_after hp h0 _

/-- `indx` (R321). -/
theorem addrIndx_completes {s : State} (hp : s.production) (b1 : Byte) :
    Completes (addrIndx b1) s fun p t => ∃ d lo hi, p = mkWord hi lo
      ∧ s.ReadsAfter [] (zext16 (b1 + s.cpu.x)) lo ∧ s.ReadsAfter [] (zext16 (b1 + s.cpu.x + 1#8)) hi
      ∧ RanReads s [readRec s 0 .dummy (zext16 b1) d, readRec s 1 .pointer (zext16 (b1 + s.cpu.x)) lo,
          readRec s 2 .pointer (zext16 (b1 + s.cpu.x + 1#8)) hi] t := pointerX_completes hp b1

/-- `indy` of a write (R322). -/
theorem addrIndy_completes {s : State} (hp : s.production) (b1 : Byte) :
    Completes (addrIndy b1) s fun a t => ∃ lo hi d, a = mkWord hi lo + zext16 s.cpu.y
      ∧ s.ReadsAfter [] (zext16 b1) lo ∧ s.ReadsAfter [] (zext16 (b1 + 1#8)) hi
      ∧ RanReads s [readRec s 0 .pointer (zext16 b1) lo, readRec s 1 .pointer (zext16 (b1 + 1#8)) hi,
          readRec s 2 .dummy (indexed (mkWord hi lo) s.cpu.y).unfixed d] t := by
  have h0 := RanReads.refl s
  refine Completes.bind (getCpu_after (Q := fun c t => c = s.cpu ∧ t = s) h0 ⟨rfl, rfl⟩) ?_
  rintro c t ⟨rfl, rfl⟩
  refine (pointerY_completes hp b1).bind ?_
  rintro p u ⟨lo, hi, rfl, hlo, hhi, h1⟩
  refine (addrIndexed_after hp h1 _).mono ?_
  rintro a v ⟨rfl, d, h2⟩
  exact ⟨lo, hi, d, rfl, hlo, hhi, h2⟩

/-! ## Data bytes -/

/-- An indexed read: one read at the unfixed address, and on a page crossing one more at the effective
address, whose byte it gives (R320, R322). -/
theorem readIndexed_after {s t : State} {recs : List AccessRecord} (hp : s.production)
    (h : RanReads s recs t) (ix : Indexed) :
    Completes (readIndexed ix) t fun m u => ∃ v, s.ReadsAfter [] ix.unfixed v ∧
      if ix.cross then s.ReadsAfter [] ix.ea m
        ∧ RanReads s (recs ++ [readRec s recs.length .data ix.unfixed v,
            readRec s (recs.length + 1) .data ix.ea m]) u
      else m = v ∧ RanReads s (recs ++ [readRec s recs.length .data ix.unfixed v]) u := by
  refine (memRead_after hp h .data ix.unfixed).bind ?_
  rintro v u ⟨h1, hv⟩
  split
  · refine (memRead_after hp h1 .data ix.ea).mono ?_
    rintro m w ⟨h2, hm⟩
    refine ⟨v, hv, hm, by simpa [List.length_append] using h2⟩
  · exact Completes.pure ⟨v, hv, rfl, h1⟩

/-- A data read at a template's address. -/
theorem readAt_completes {s : State} {ea : M Word} {A : Word → List AccessRecord → Prop}
    (hp : s.production) (h : Completes ea s fun a t => ∃ recs, A a recs ∧ RanReads s recs t) :
    Completes (readAt ea) s fun m t => ∃ a recs, A a recs ∧ s.ReadsAfter [] a m
      ∧ RanReads s (recs ++ [readRec s recs.length .data a m]) t := by
  refine h.bind ?_
  rintro a t ⟨recs, hA, h1⟩
  refine (memRead_after hp h1 .data a).mono ?_
  rintro m u ⟨h2, hm⟩
  exact ⟨a, recs, hA, hm, h2⟩

end Sys2Proof.Machine
end

