-- ==== Sys2Proof/Laws/Classes.lean ====
section
/-! SUPPORT. What an instruction of each class can do, said once over its template: a read form, a write
form, a read-modify-write form and an implied instruction complete in a production machine, whatever
the operation on the registers is. -/

namespace Sys2Proof.Machine

/-- What an instruction's Encoding line says is what the opcode map holds at its opcode. -/
theorem Encodes.of_row {i : Instr} {op : Byte} {n : Nat} {p : Bool} (h : i.opcode = op)
    (hn : (rowOf op).cycles = n) (hp : (rowOf op).pagePenalty = p) : Encodes i op n p :=
  ⟨h, by rw [Instr.baseCycles, h, hn], by rw [Instr.pagePenalty, h, hp]⟩

/-! ## Templates of reads: the byte they deliver costs nothing but the read frame -/

/-- An indexed read, after accesses that only read. -/
theorem readIndexed_frame {s t : State} {recs : List AccessRecord} (hp : s.production)
    (h : RanReads s recs t) (ix : Indexed) : Completes (readIndexed ix) t fun _ u => ReadFrame s u :=
  (readIndexed_after hp h ix).mono fun m u ⟨v, _, k⟩ => by
    split at k
    · exact k.2.frame
    · exact k.2.frame

/-- A read at the address of a template that only reads. -/
theorem readAt_frame {s : State} {ea : M Word} (hp : s.production)
    (h : Completes ea s fun _ t => ∃ recs, RanReads s recs t) :
    Completes (readAt ea) s fun _ t => ReadFrame s t :=
  h.bind fun a _ ⟨_, h1⟩ => (memRead_after hp h1 .data a).mono fun _ _ k => k.1.frame

/-- `zp`, `zpx`, `zpy`, `abs`, `indx`: the templates of an address only read. -/
theorem addrZp_reads (s : State) (b1 : Byte) :
    Completes (addrZp b1) s fun _ t => ∃ recs, RanReads s recs t :=
  (addrZp_completes s b1).mono fun _ _ h => ⟨_, h.2⟩

theorem addrAbs_reads (s : State) (w : Word) :
    Completes (addrAbs w) s fun _ t => ∃ recs, RanReads s recs t :=
  (addrAbs_completes s w).mono fun _ _ h => ⟨_, h.2⟩

theorem addrZpx_reads {s : State} (hp : s.production) (b1 : Byte) :
    Completes (addrZpx b1) s fun _ t => ∃ recs, RanReads s recs t :=
  (addrZpx_completes hp b1).mono fun _ _ ⟨_, _, h⟩ => ⟨_, h⟩

theorem addrZpy_reads {s : State} (hp : s.production) (b1 : Byte) :
    Completes (addrZpy b1) s fun _ t => ∃ recs, RanReads s recs t :=
  (addrZpy_completes hp b1).mono fun _ _ ⟨_, _, h⟩ => ⟨_, h⟩

theorem addrAbsx_reads {s : State} (hp : s.production) (w : Word) :
    Completes (addrAbsx w) s fun _ t => ∃ recs, RanReads s recs t :=
  (addrAbsx_completes hp w).mono fun _ _ ⟨_, _, h⟩ => ⟨_, h⟩

theorem addrAbsy_reads {s : State} (hp : s.production) (w : Word) :
    Completes (addrAbsy w) s fun _ t => ∃ recs, RanReads s recs t :=
  (addrAbsy_completes hp w).mono fun _ _ ⟨_, _, h⟩ => ⟨_, h⟩

theorem addrIndx_reads {s : State} (hp : s.production) (b1 : Byte) :
    Completes (addrIndx b1) s fun _ t => ∃ recs, RanReads s recs t :=
  (addrIndx_completes hp b1).mono fun _ _ ⟨_, _, _, _, _, _, h⟩ => ⟨_, h⟩

theorem addrIndy_reads {s : State} (hp : s.production) (b1 : Byte) :
    Completes (addrIndy b1) s fun _ t => ∃ recs, RanReads s recs t :=
  (addrIndy_completes hp b1).mono fun _ _ ⟨_, _, _, _, _, _, h⟩ => ⟨_, h⟩

/-- The read templates, one for each mode. -/
theorem readImm_frame (s : State) (b1 : Byte) : Completes (readImm b1) s fun _ t => ReadFrame s t :=
  Completes.pure (ReadFrame.refl s)

theorem readZp_frame {s : State} (hp : s.production) (b1 : Byte) :
    Completes (readZp b1) s fun _ t => ReadFrame s t := readAt_frame hp (addrZp_reads s b1)

theorem readZpx_frame {s : State} (hp : s.production) (b1 : Byte) :
    Completes (readZpx b1) s fun _ t => ReadFrame s t := readAt_frame hp (addrZpx_reads hp b1)

theorem readZpy_frame {s : State} (hp : s.production) (b1 : Byte) :
    Completes (readZpy b1) s fun _ t => ReadFrame s t := readAt_frame hp (addrZpy_reads hp b1)

theorem readAbs_frame {s : State} (hp : s.production) (w : Word) :
    Completes (readAbs w) s fun _ t => ReadFrame s t := readAt_frame hp (addrAbs_reads s w)

theorem readIndx_frame {s : State} (hp : s.production) (b1 : Byte) :
    Completes (readIndx b1) s fun _ t => ReadFrame s t := readAt_frame hp (addrIndx_reads hp b1)

theorem readAbsx_frame {s : State} (hp : s.production) (w : Word) :
    Completes (readAbsx w) s fun _ t => ReadFrame s t :=
  readIndexed_frame hp (RanReads.refl s) (indexed w s.cpu.x)

theorem readAbsy_frame {s : State} (hp : s.production) (w : Word) :
    Completes (readAbsy w) s fun _ t => ReadFrame s t :=
  readIndexed_frame hp (RanReads.refl s) (indexed w s.cpu.y)

theorem readIndy_frame {s : State} (hp : s.production) (b1 : Byte) :
    Completes (readIndy b1) s fun _ t => ReadFrame s t := by
  refine Completes.bind (getCpu_after (Q := fun c t => c = s.cpu ∧ t = s) (RanReads.refl s) ⟨rfl, rfl⟩) ?_
  rintro c t ⟨rfl, rfl⟩
  exact (pointerY_completes hp b1).bind fun p u ⟨_, _, _, _, _, h⟩ => readIndexed_frame hp h _

/-! ## Classes -/

/-- A read form completes where its template does. -/
theorem ReadForm.completes_of {f : ReadForm} {op after : Byte → Cpu → Cpu} {s : State}
    (h : Completes f.operand s fun _ t => ReadFrame s t)
    (he : exec f.instr s = outcome (readClass f.operand op) s)
    (hE : Encodes f.instr f.opcode f.cycles f.plusP) (ho : ∀ m, op m s.cpu = after m s.cpu) :
    f.completes after s := by
  obtain ⟨m, s1, h1, h2⟩ := h
  refine ⟨hE, m, s1, h1, h2, ?_⟩
  rw [he, outcome_ok (t := { s1 with cpu := after m s.cpu })]
  show (f.operand >>= fun m => updCpu (op m)) s = _
  rw [bind_ok h1]
  show EStateM.Result.ok () (s1.mapCpu (op m)) = _
  simp only [State.mapCpu, h2.cpu, ho]

/-- A write form completes where its address template does. -/
theorem StoreForm.stores_of {f : StoreForm} {value : Cpu → Byte} {s : State} (hp : s.production)
    (hc : s.canonical) (h : Completes f.address s fun _ t => ∃ recs, RanReads s recs t)
    (he : exec f.instr s = outcome (writeClass f.address value) s)
    (hE : Encodes f.instr f.opcode f.cycles false) : f.stores (value s.cpu) s := by
  obtain ⟨a, s1, h1, recs, h2⟩ := h
  obtain ⟨⟨⟩, t, h3, h4⟩ := memWrite_completes (h2.frame.others.production hp) (h2.frame.canonical hc)
    .data a (value s.cpu)
  refine ⟨hE, a, s1, recs, t, h1, h2, ?_, ?_⟩
  · rw [he, outcome_ok (t := t)]
    show (f.address >>= fun a => getCpu >>= fun c => memWrite .data a (value c)) s = _
    rw [bind_ok h1, bind_ok (show getCpu s1 = .ok s1.cpu s1 from rfl), h2.frame.cpu, h3]
  · have k := (h2.ran hc).trans h4
    rw [h2.now, h2.frame.cpu] at k
    exact k

/-- A read-modify-write form completes where its address template does. -/
theorem StoreForm.modifies_of {f : StoreForm} {op : Byte → Cpu → Byte × Cpu} {combine after : Byte → Cpu → Cpu}
    {new : Byte → Cpu → Byte} {s : State} (hp : s.production) (hc : s.canonical)
    (h : Completes f.address s fun _ t => ∃ recs, RanReads s recs t)
    (he : exec f.instr s = outcome (rmwClass f.address op combine) s)
    (hE : Encodes f.instr f.opcode f.cycles false) (hn : ∀ m, (op m s.cpu).1 = new m s.cpu)
    (ha : ∀ m, combine (op m s.cpu).1 (op m s.cpu).2 = after m s.cpu) : f.modifies new after s := by
  obtain ⟨a, s1, h1, recs, h2⟩ := h
  obtain ⟨m, s2, h3, h4, hv⟩ := memRead_after hp h2 .data a
  obtain ⟨⟨⟩, s3, h5, h6⟩ := memWrite_completes (h4.frame.others.production hp) (h4.frame.canonical hc)
    .dummy a m
  have k6 := (h4.ran hc).trans h6
  obtain ⟨⟨⟩, s5, h7, h8⟩ := memWrite_completes
    (s := s3.mapCpu fun c => (op m c).2) (k6.frame.others.production hp) k6.frame.canonical
    .data a (new m s.cpu)
  have k7 := (k6.mapCpu fun c => (op m c).2).trans h8
  have k8 := k7.mapCpu (combine (new m s.cpu))
  have hcpu : s3.cpu = s.cpu := by rw [h6.cpu, h4.frame.cpu]
  refine ⟨hE, a, s1, recs, m, s5.mapCpu (combine (new m s.cpu)), h1, h2, ?_, hv, ?_⟩
  · rw [he, outcome_ok (t := s5.mapCpu (combine (new m s.cpu)))]
    show (f.address >>= fun a => memRead .data a >>= fun m => memWrite .dummy a m >>= fun _ =>
      stepCpu (op m) >>= fun r => memWrite .data a r >>= fun _ => updCpu (combine r)) s = _
    rw [bind_ok h1, bind_ok h3, bind_ok h5,
      bind_ok (show stepCpu (op m) s3 = .ok (op m s3.cpu).1 (s3.mapCpu fun c => (op m c).2) from rfl),
      hcpu, hn, bind_ok h7]
    rfl
  · have e1 : s2.clock + s2.cycle = s.clock + s.cycle + (recs.length + 1) := by
      rw [h4.now, List.length_append]; rfl
    have e2 : (s3.mapCpu fun c => (op m c).2).clock + (s3.mapCpu fun c => (op m c).2).cycle
        = s.clock + s.cycle + (recs.length + 2) := by
      show s3.clock + s3.cycle = _
      rw [k6.now, List.length_append, List.length_append]; rfl
    have ec : combine (new m s.cpu) (s3.mapCpu fun c => (op m c).2).cpu = after m s.cpu := by
      show combine (new m s.cpu) (op m s3.cpu).2 = _
      rw [hcpu, ← hn m, ha]
    rw [e1, e2, ec] at k8
    simpa [List.append_assoc, readRec, writeRec] using k8

/-- An implied instruction completes. -/
theorem ImpliedCompletes.of {i : Instr} {opcode : Byte} {op after : Cpu → Cpu} {s : State}
    (hp : s.production) (he : exec i s = outcome (impliedClass op) s) (hE : Encodes i opcode 2 false)
    (ho : op s.cpu = after s.cpu) : ImpliedCompletes i opcode after s := by
  obtain ⟨⟨⟩, s1, h1, v, h2, hv⟩ := dummyPc_completes hp
  refine ⟨hE, s1, v, h2, hv, ?_⟩
  rw [he, outcome_ok (t := { s1 with cpu := after s.cpu })]
  show (dummyPc >>= fun _ => updCpu op) s = _
  rw [bind_ok h1]
  show EStateM.Result.ok () (s1.mapCpu op) = _
  simp only [State.mapCpu, h2.frame.cpu, ho]

end Sys2Proof.Machine
end

