-- ==== Sys2Proof/Laws/Fetch.lean ====
section
/-! SUPPORT. Fetching an instruction from bytes of stores: the bytes `peek` shows, one cycle and one record
for each, and PC past them. -/

namespace Sys2Proof.Machine

/-- The state after a read of a stored byte: one cycle later, with the read's record. -/
def State.readPlain (s : State) (kind : AccessKind) (a : Word) : State :=
  { s with cycle := s.cycle + 1, history := s.history ++ [readRec s 0 kind a (s.peek a)] }

/-- The state after a fetch of a stored byte at PC. -/
def State.fetchPlain (s : State) (kind : AccessKind) : State :=
  (s.readPlain kind s.cpu.pc).mapCpu fun c => { c with pc := c.pc + 1#16 }

@[simp] theorem State.fetchPlain_peek (s : State) (k : AccessKind) (a : Word) :
    (s.fetchPlain k).peek a = s.peek a := rfl
@[simp] theorem State.fetchPlain_plain (s : State) (k : AccessKind) (a : Word) :
    (s.fetchPlain k).plain a ↔ s.plain a := Iff.rfl
@[simp] theorem State.fetchPlain_pc (s : State) (k : AccessKind) :
    (s.fetchPlain k).cpu.pc = s.cpu.pc + 1#16 := rfl

/-- A read of a stored byte gives what `peek` shows, in every build (R160, R188). -/
theorem memRead_plain {s : State} {a : Word} (h : s.plain a) (kind : AccessKind) :
    memRead kind a s = .ok (s.peek a) (s.readPlain kind a) := by
  unfold State.plain targetStored at h
  rw [memRead, busRead]
  split at h
  · rename_i k id off hk
    simp only [hk, State.tickCycle, State.record, State.readPlain, State.peek, readRec, Nat.add_zero]
  · simp at h
  · simp at h

/-- A fetch of a stored byte. -/
theorem fetchKind_plain {s : State} (h : s.plain s.cpu.pc) (kind : AccessKind) :
    fetchKind kind s = .ok (s.peek s.cpu.pc) (s.fetchPlain kind) := by
  rw [fetchKind, bind_ok (show getCpu s = .ok s.cpu s from rfl), bind_ok (memRead_plain h kind)]
  rfl

/-- JSR is three bytes long. -/
theorem rowOf_jsr_length {op : Byte} (h : op = 0x20#8) : (rowOf op).mode.length = 3 := by rw [h]; rfl

/-- One byte fetched. -/
theorem State.fetched_one (s : State) : s.fetched [s.peek s.cpu.pc] = s.fetchPlain .opcode := rfl

/-- Two bytes fetched. -/
theorem State.fetched_two (s : State) : s.fetched [s.peek s.cpu.pc, s.peek (s.cpu.pc + 1#16)]
    = (s.fetchPlain .opcode).fetchPlain .operand := by
  have e2 : s.cpu.pc + 1#16 + 1#16 = s.cpu.pc + 2#16 := by bv_omega
  simp [State.fetched, State.fetchPlain, State.readPlain, State.mapCpu, fetchRecords, readRec, e2,
    Nat.add_assoc]
  rfl

/-- Three bytes fetched. -/
theorem State.fetched_three (s : State) :
    s.fetched [s.peek s.cpu.pc, s.peek (s.cpu.pc + 1#16), s.peek (s.cpu.pc + 2#16)]
      = ((s.fetchPlain .opcode).fetchPlain .operand).fetchPlain .operand := by
  have e2 : s.cpu.pc + 1#16 + 1#16 = s.cpu.pc + 2#16 := by bv_omega
  have e3 : s.cpu.pc + 2#16 + 1#16 = s.cpu.pc + 3#16 := by bv_omega
  simp [State.fetched, State.fetchPlain, State.readPlain, State.mapCpu, fetchRecords, readRec, e2, e3,
    Nat.add_assoc]
  exact ⟨rfl, rfl⟩

/-- Where the three bytes at PC are bytes of stores and decode to `i`, fetching gives `i` and the state past
the bytes it fetched (R306, R310, R535). -/
theorem fetchInstr_plain {s : State} {i : Instr} {rest : List Byte}
    (hp : ∀ j < 3, s.plain (s.cpu.pc + BitVec.ofNat 16 j))
    (hd : decode [s.peek s.cpu.pc, s.peek (s.cpu.pc + 1#16), s.peek (s.cpu.pc + 2#16)] = .ok (i, rest)) :
    fetchInstr s = .ok i (s.fetched s.instructionBytes) := by
  have h0 : s.plain s.cpu.pc := by simpa using hp 0 (by omega)
  have h1 : s.plain (s.cpu.pc + 1#16) := hp 1 (by omega)
  have h2 : s.plain (s.cpu.pc + 2#16) := hp 2 (by omega)
  have e2 : s.cpu.pc + 1#16 + 1#16 = s.cpu.pc + 2#16 := by bv_omega
  have e3 : s.cpu.pc + 2#16 + 1#16 = s.cpu.pc + 3#16 := by bv_omega
  have f1 := fetchKind_plain (s := s.fetchPlain .opcode) h1 .operand
  have f2 := fetchKind_plain (s := (s.fetchPlain .opcode).fetchPlain .operand)
    (by simp only [State.fetchPlain_plain, State.fetchPlain_pc, e2]; exact h2) .operand
  simp only [State.fetchPlain_peek, State.fetchPlain_pc, e2] at f1 f2
  rw [fetchInstr, bind_ok (fetchKind_plain h0 .opcode)]
  have hq : fetchedOperands (s.peek s.cpu.pc)
      = if s.peek s.cpu.pc = 0x20#8 then 1 else (rowOf (s.peek s.cpu.pc)).mode.length - 1 := rfl
  have hj := @rowOf_jsr_length (s.peek s.cpu.pc)
  rw [State.instructionBytes]
  unfold decode at hd
  simp only at hd
  split at hd
  · rename_i hl
    have : fetchedOperands (s.peek s.cpu.pc) = 0 := by
      rw [hq, hl, if_neg (fun hh => by have := hj hh; omega)]
    simp only [Except.ok.injEq, Prod.mk.injEq] at hd
    rw [this, hl, ← hd.1]
    exact congrArg (EStateM.Result.ok _) s.fetched_one.symm
  · rename_i b1 rest' hl hb
    have : fetchedOperands (s.peek s.cpu.pc) = 1 := by
      rw [hq, hl, if_neg (fun hh => by have := hj hh; omega)]
    simp only [List.cons.injEq] at hb
    simp only [Except.ok.injEq, Prod.mk.injEq] at hd
    rw [this, hl, ← hd.1, ← hb.1]
    show (fetchKind .operand >>= fun b1 => Pure.pure (Row.build _ b1 0#8)) _ = _
    rw [bind_ok f1]
    exact congrArg (EStateM.Result.ok _) s.fetched_two.symm
  · rename_i b1 b2 rest' hl hb
    simp only [List.cons.injEq] at hb
    simp only [Except.ok.injEq, Prod.mk.injEq] at hd
    by_cases hh : s.peek s.cpu.pc = 0x20#8
    · have : fetchedOperands (s.peek s.cpu.pc) = 1 := by rw [hq, if_pos hh]
      rw [this, hl, ← hd.1, ← hb.1, ← hb.2.1]
      show (fetchKind .operand >>= fun b1 => getCpu >>= fun c => peekByte c.pc >>= fun b2 =>
        Pure.pure (Row.build _ b1 b2)) _ = _
      rw [bind_ok f1, bind_ok (show getCpu _ = .ok _ _ from rfl), bind_ok (show peekByte _ _ = .ok _ _ from rfl)]
      simp only [State.fetchPlain_peek, State.fetchPlain_pc, e2]
      exact congrArg (EStateM.Result.ok _) s.fetched_two.symm
    · have : fetchedOperands (s.peek s.cpu.pc) = 2 := by rw [hq, if_neg hh, hl]
      rw [this, hl, ← hd.1, ← hb.1, ← hb.2.1]
      show (fetchKind .operand >>= fun b1 => fetchKind .operand >>= fun b2 =>
        Pure.pure (Row.build _ b1 b2)) _ = _
      rw [bind_ok f1, bind_ok f2]
      exact congrArg (EStateM.Result.ok _) s.fetched_three.symm
  · simp at hd

end Sys2Proof.Machine
end

