-- ==== Sys2Proof/Laws/Keep.lean ====
section
/-! SUPPORT. A property of states that every bus access and every change of the CPU keeps is kept by every
instruction, every interrupt entry and the reset sequence, whether they complete or fault. -/

namespace Sys2Proof.Machine

/-- A property that every bus access keeps: a record, the chips' register handlers, a store to a byte of RAM
that an address selects, and the fault of an unmapped access in a validation build. -/
structure AccessClosed (I : State → Prop) : Prop where
  record : ∀ s r, I s → I (s.record r)
  handlerRead : ∀ s i off t, I s → I (registerRead i off t s).2
  handlerWrite : ∀ s i off t v, I s → I (registerWrite i off t v s)
  store : ∀ s a id off v, s.target a = .store .ram id off → I s → I (s.storeWrite id off v)
  fault : ∀ s dir a t, s.config.validateBus = true → s.target a = .unmapped → I s →
    I (s.raise (.unmappedAddressError dir a t))

/-- A property that the CPU's parts of a step keep: what every bus access keeps, and any change of the CPU
and of the cycle index. -/
structure BusClosed (I : State → Prop) : Prop extends AccessClosed I where
  cpu : ∀ s f, I s → I (s.mapCpu f)
  cycle : ∀ s k, I s → I (s.setCycle k)

/-- `p` keeps `I`, and where it faults the state with the fault recorded has `I` as well. -/
def Keeps {α : Type} (I : State → Prop) (p : M α) : Prop :=
  ∀ s, I s → match p s with
    | .ok _ t => I t
    | .error f t => I (t.raise f)

variable {I : State → Prop} {α β : Type}

/-- A value keeps everything. -/
theorem keeps_pure (a : α) : Keeps I (pure a : M α) := fun _ h => h

/-- A sequence keeps what both parts keep. -/
theorem keeps_bind {p : M α} {f : α → M β} (hp : Keeps I p) (hf : ∀ a, Keeps I (f a)) :
    Keeps I (p >>= f) := fun s hs => by
  have h := hp s hs
  rw [bind_apply]
  cases hr : p s with
  | ok a t => rw [hr] at h; exact hf a t h
  | error e t => rw [hr] at h; exact h

/-- Looking at the CPU keeps everything. -/
theorem keeps_getCpu : Keeps I getCpu := fun _ h => h

/-- Looking at the configuration keeps everything. -/
theorem keeps_getConfig : Keeps I getConfig := fun _ h => h

/-- A change of the CPU. -/
theorem keeps_updCpu (hI : BusClosed I) (f : Cpu → Cpu) : Keeps I (updCpu f) := fun s h => hI.cpu s f h

/-- A computation on the CPU. -/
theorem keeps_stepCpu (hI : BusClosed I) (f : Cpu → Byte × Cpu) : Keeps I (stepCpu f) :=
  fun s h => hI.cpu s _ h

/-- A bus read, completed or not. -/
theorem keeps_busRead (hI : AccessClosed I) (p : Performer) (kind : AccessKind) (t : Nat) (a : Word) :
    Keeps I (busRead p kind t a) := fun s hs => by
  unfold busRead
  cases ht : s.target a with
  | store k id off => exact hI.record _ _ hs
  | chip i off => exact hI.record _ _ (hI.handlerRead s i off t hs)
  | unmapped =>
    by_cases hv : s.config.validateBus = true
    · simp only [hv, if_true]; exact hI.fault s _ a t hv ht hs
    · simp only [hv]; exact hI.record _ _ hs

/-- A bus write, completed or not. -/
theorem keeps_busWrite (hI : AccessClosed I) (p : Performer) (kind : AccessKind) (t : Nat) (a : Word)
    (v : Byte) : Keeps I (busWrite p kind t a v) := fun s hs => by
  unfold busWrite
  cases ht : s.target a with
  | store k id off =>
    cases k with
    | ram => exact hI.record _ _ (hI.store s a id off v ht hs)
    | rom => exact hI.record _ _ hs
  | chip i off => exact hI.record _ _ (hI.handlerWrite s i off t v hs)
  | unmapped =>
    by_cases hv : s.config.validateBus = true
    · simp only [hv, if_true]; exact hI.fault s _ a t hv ht hs
    · simp only [hv]; exact hI.record _ _ hs

/-- A read of the CPU. -/
theorem keeps_memRead (hI : BusClosed I) (kind : AccessKind) (a : Word) : Keeps I (memRead kind a) :=
  fun s hs => by
  have h := keeps_busRead hI.toAccessClosed .cpu kind (s.clock + s.cycle) a s hs
  unfold memRead
  cases hr : busRead .cpu kind (s.clock + s.cycle) a s with
  | ok v t => rw [hr] at h; exact hI.cycle t _ h
  | error e t => rw [hr] at h; exact h

/-- A write of the CPU. -/
theorem keeps_memWrite (hI : BusClosed I) (kind : AccessKind) (a : Word) (v : Byte) :
    Keeps I (memWrite kind a v) := fun s hs => by
  have h := keeps_busWrite hI.toAccessClosed .cpu kind (s.clock + s.cycle) a v s hs
  unfold memWrite
  cases hr : busWrite .cpu kind (s.clock + s.cycle) a v s with
  | ok u t => rw [hr] at h; exact hI.cycle t _ h
  | error e t => rw [hr] at h; exact h

/-- A dummy read. -/
theorem keeps_dummyRead (hI : BusClosed I) (a : Word) : Keeps I (dummyRead a) :=
  keeps_bind (keeps_memRead hI _ _) fun _ => keeps_pure _

/-- A dummy read at PC. -/
theorem keeps_dummyPc (hI : BusClosed I) : Keeps I dummyPc :=
  keeps_bind keeps_getCpu fun _ => keeps_dummyRead hI _

/-- A dummy read of the stack. -/
theorem keeps_dummyStack (hI : BusClosed I) : Keeps I dummyStack :=
  keeps_bind keeps_getCpu fun _ => keeps_dummyRead hI _

/-- A fetch. -/
theorem keeps_fetchKind (hI : BusClosed I) (kind : AccessKind) : Keeps I (fetchKind kind) :=
  keeps_bind keeps_getCpu fun _ => keeps_bind (keeps_memRead hI _ _) fun _ =>
    keeps_bind (keeps_updCpu hI _) fun _ => keeps_pure _

/-- A push. -/
theorem keeps_push (hI : BusClosed I) (v : Byte) : Keeps I (push v) :=
  keeps_bind keeps_getCpu fun _ => keeps_bind (keeps_memWrite hI _ _ _) fun _ => keeps_updCpu hI _

/-- A pull. -/
theorem keeps_pull (hI : BusClosed I) : Keeps I pull :=
  keeps_bind (keeps_updCpu hI _) fun _ => keeps_bind keeps_getCpu fun _ => keeps_memRead hI _ _

/-- Fetching an instruction. -/
theorem keeps_fetchInstr (hI : BusClosed I) : Keeps I fetchInstr := by
  refine keeps_bind (keeps_fetchKind hI _) fun op => ?_
  simp only
  split
  · exact keeps_pure _
  · exact keeps_bind (keeps_fetchKind hI _) fun _ => keeps_bind keeps_getCpu fun _ =>
      keeps_bind (fun _ h => h) fun _ => keeps_pure _
  · exact keeps_bind (keeps_fetchKind hI _) fun _ => keeps_pure _
  · exact keeps_bind (keeps_fetchKind hI _) fun _ => keeps_bind (keeps_fetchKind hI _) fun _ =>
      keeps_pure _

/-! ## Templates -/

theorem keeps_pointerX (hI : BusClosed I) (b1 : Byte) : Keeps I (pointerX b1) :=
  keeps_bind keeps_getCpu fun _ => keeps_bind (keeps_dummyRead hI _) fun _ =>
    keeps_bind (keeps_memRead hI _ _) fun _ => keeps_bind (keeps_memRead hI _ _) fun _ => keeps_pure _

theorem keeps_pointerY (hI : BusClosed I) (b1 : Byte) : Keeps I (pointerY b1) :=
  keeps_bind (keeps_memRead hI _ _) fun _ => keeps_bind (keeps_memRead hI _ _) fun _ => keeps_pure _

theorem keeps_addrZp (b1 : Byte) : Keeps I (addrZp b1) := keeps_pure _

theorem keeps_addrAbs (w : Word) : Keeps I (addrAbs w) := keeps_pure _

theorem keeps_addrZpx (hI : BusClosed I) (b1 : Byte) : Keeps I (addrZpx b1) :=
  keeps_bind keeps_getCpu fun _ => keeps_bind (keeps_dummyRead hI _) fun _ => keeps_pure _

theorem keeps_addrZpy (hI : BusClosed I) (b1 : Byte) : Keeps I (addrZpy b1) :=
  keeps_bind keeps_getCpu fun _ => keeps_bind (keeps_dummyRead hI _) fun _ => keeps_pure _

theorem keeps_addrIndexed (hI : BusClosed I) (ix : Indexed) : Keeps I (addrIndexed ix) :=
  keeps_bind (keeps_dummyRead hI _) fun _ => keeps_pure _

theorem keeps_addrAbsx (hI : BusClosed I) (w : Word) : Keeps I (addrAbsx w) :=
  keeps_bind keeps_getCpu fun _ => keeps_addrIndexed hI _

theorem keeps_addrAbsy (hI : BusClosed I) (w : Word) : Keeps I (addrAbsy w) :=
  keeps_bind keeps_getCpu fun _ => keeps_addrIndexed hI _

theorem keeps_addrIndx (hI : BusClosed I) (b1 : Byte) : Keeps I (addrIndx b1) := keeps_pointerX hI b1

theorem keeps_addrIndy (hI : BusClosed I) (b1 : Byte) : Keeps I (addrIndy b1) :=
  keeps_bind keeps_getCpu fun _ => keeps_bind (keeps_pointerY hI _) fun _ => keeps_addrIndexed hI _

theorem keeps_readImm (b1 : Byte) : Keeps I (readImm b1) := keeps_pure _

theorem keeps_readAt (hI : BusClosed I) {ea : M Word} (h : Keeps I ea) : Keeps I (readAt ea) :=
  keeps_bind h fun _ => keeps_memRead hI _ _

theorem keeps_readZp (hI : BusClosed I) (b1 : Byte) : Keeps I (readZp b1) :=
  keeps_readAt hI (keeps_addrZp b1)

theorem keeps_readZpx (hI : BusClosed I) (b1 : Byte) : Keeps I (readZpx b1) :=
  keeps_readAt hI (keeps_addrZpx hI b1)

theorem keeps_readZpy (hI : BusClosed I) (b1 : Byte) : Keeps I (readZpy b1) :=
  keeps_readAt hI (keeps_addrZpy hI b1)

theorem keeps_readAbs (hI : BusClosed I) (w : Word) : Keeps I (readAbs w) :=
  keeps_readAt hI (keeps_addrAbs w)

theorem keeps_readIndx (hI : BusClosed I) (b1 : Byte) : Keeps I (readIndx b1) :=
  keeps_readAt hI (keeps_addrIndx hI b1)

theorem keeps_readIndexed (hI : BusClosed I) (ix : Indexed) : Keeps I (readIndexed ix) := by
  refine keeps_bind (keeps_memRead hI _ _) fun _ => ?_
  split
  · exact keeps_memRead hI _ _
  · exact keeps_pure _

theorem keeps_readAbsx (hI : BusClosed I) (w : Word) : Keeps I (readAbsx w) :=
  keeps_bind keeps_getCpu fun _ => keeps_readIndexed hI _

theorem keeps_readAbsy (hI : BusClosed I) (w : Word) : Keeps I (readAbsy w) :=
  keeps_bind keeps_getCpu fun _ => keeps_readIndexed hI _

theorem keeps_readIndy (hI : BusClosed I) (b1 : Byte) : Keeps I (readIndy b1) :=
  keeps_bind keeps_getCpu fun _ => keeps_bind (keeps_pointerY hI _) fun _ => keeps_readIndexed hI _

/-! ## Classes -/

theorem keeps_readClass (hI : BusClosed I) {p : M Byte} (h : Keeps I p) {op : Byte → Cpu → Cpu} :
    Keeps I (readClass p op) := keeps_bind h fun _ => keeps_updCpu hI _

theorem keeps_writeClass (hI : BusClosed I) {ea : M Word} (h : Keeps I ea) {v : Cpu → Byte} :
    Keeps I (writeClass ea v) :=
  keeps_bind h fun _ => keeps_bind keeps_getCpu fun _ => keeps_memWrite hI _ _ _

theorem keeps_rmwClass (hI : BusClosed I) {ea : M Word} (h : Keeps I ea) {f : Byte → Cpu → Byte × Cpu}
    {g : Byte → Cpu → Cpu} : Keeps I (rmwClass ea f g) :=
  keeps_bind h fun _ => keeps_bind (keeps_memRead hI _ _) fun _ =>
    keeps_bind (keeps_memWrite hI _ _ _) fun _ => keeps_bind (keeps_stepCpu hI _) fun _ =>
      keeps_bind (keeps_memWrite hI _ _ _) fun _ => keeps_updCpu hI _

theorem keeps_impliedClass (hI : BusClosed I) {op : Cpu → Cpu} : Keeps I (impliedClass op) :=
  keeps_bind (keeps_dummyPc hI) fun _ => keeps_updCpu hI _

theorem keeps_accumulatorClass (hI : BusClosed I) {f : Byte → Cpu → Byte × Cpu} :
    Keeps I (accumulatorClass f) := keeps_impliedClass hI

theorem keeps_pushClass (hI : BusClosed I) {v : Cpu → Byte} : Keeps I (pushClass v) :=
  keeps_bind (keeps_dummyPc hI) fun _ => keeps_bind keeps_getCpu fun _ => keeps_push hI _

theorem keeps_pullClass (hI : BusClosed I) {op : Byte → Cpu → Cpu} : Keeps I (pullClass op) :=
  keeps_bind (keeps_dummyPc hI) fun _ => keeps_bind (keeps_dummyStack hI) fun _ =>
    keeps_bind (keeps_pull hI) fun _ => keeps_updCpu hI _

theorem keeps_jumpTo (hI : BusClosed I) (w : Word) : Keeps I (jumpTo w) := keeps_updCpu hI _

theorem keeps_branchClass (hI : BusClosed I) {cond : Cpu → Bool} {off : Byte} :
    Keeps I (branchClass cond off) := by
  refine keeps_bind keeps_getCpu fun c => ?_
  split
  · refine keeps_bind (keeps_dummyRead hI _) fun _ => ?_
    simp only
    split
    · exact keeps_jumpTo hI _
    · exact keeps_bind (keeps_dummyRead hI _) fun _ => keeps_jumpTo hI _
  · exact keeps_pure _

theorem keeps_storeHigh (hI : BusClosed I) (ix : Indexed) (reg : Cpu → Byte) :
    Keeps I (storeHigh ix reg) :=
  keeps_bind keeps_getConfig fun _ => keeps_bind keeps_getCpu fun _ => keeps_memWrite hI _ _ _

theorem keeps_highStoreAbs (hI : BusClosed I) {w : Word} {ix reg : Cpu → Byte} :
    Keeps I (highStoreAbs w ix reg) :=
  keeps_bind keeps_getCpu fun _ => keeps_bind (keeps_addrIndexed hI _) fun _ => keeps_storeHigh hI _ _

theorem keeps_highStoreInd (hI : BusClosed I) {b1 : Byte} {reg : Cpu → Byte} :
    Keeps I (highStoreInd b1 reg) :=
  keeps_bind keeps_getCpu fun _ => keeps_bind (keeps_pointerY hI _) fun _ =>
    keeps_bind (keeps_addrIndexed hI _) fun _ => keeps_storeHigh hI _ _

theorem keeps_transferAndStore (hI : BusClosed I) {w : Word} : Keeps I (transferAndStore w) :=
  keeps_bind keeps_getCpu fun _ => keeps_bind (keeps_addrIndexed hI _) fun _ =>
    keeps_bind (keeps_updCpu hI _) fun _ => keeps_storeHigh hI _ _

theorem keeps_jumpAbsolute (hI : BusClosed I) {w : Word} : Keeps I (jumpAbsolute w) := keeps_jumpTo hI _

theorem keeps_jumpIndirect (hI : BusClosed I) {w : Word} : Keeps I (jumpIndirect w) :=
  keeps_bind (keeps_memRead hI _ _) fun _ => keeps_bind (keeps_memRead hI _ _) fun _ => keeps_jumpTo hI _

theorem keeps_jumpSubroutine (hI : BusClosed I) {w : Word} : Keeps I (jumpSubroutine w) :=
  keeps_bind (keeps_dummyStack hI) fun _ => keeps_bind keeps_getCpu fun _ =>
    keeps_bind (keeps_push hI _) fun _ => keeps_bind (keeps_push hI _) fun _ =>
      keeps_bind (keeps_memRead hI _ _) fun _ => keeps_jumpTo hI _

theorem keeps_returnSubroutine (hI : BusClosed I) : Keeps I returnSubroutine :=
  keeps_bind (keeps_dummyPc hI) fun _ => keeps_bind (keeps_dummyStack hI) fun _ =>
    keeps_bind (keeps_pull hI) fun _ => keeps_bind (keeps_pull hI) fun _ =>
      keeps_bind (keeps_jumpTo hI _) fun _ => keeps_bind (keeps_dummyPc hI) fun _ => keeps_jumpTo hI _

theorem keeps_returnFromException (hI : BusClosed I) : Keeps I returnFromException :=
  keeps_bind (keeps_pull hI) fun _ => keeps_bind (keeps_updCpu hI _) fun _ =>
    keeps_bind (keeps_pull hI) fun _ => keeps_bind (keeps_pull hI) fun _ => keeps_jumpTo hI _

theorem keeps_returnInterrupt (hI : BusClosed I) : Keeps I returnInterrupt :=
  keeps_bind (keeps_dummyPc hI) fun _ => keeps_bind (keeps_dummyStack hI) fun _ =>
    keeps_returnFromException hI

/-- Taking an interrupt or BRK. -/
theorem keeps_takeException (hI : BusClosed I) (b : Bool) (w : Word) : Keeps I (takeException b w) :=
  keeps_bind keeps_getCpu fun _ => keeps_bind (keeps_push hI _) fun _ =>
    keeps_bind (keeps_push hI _) fun _ => keeps_bind keeps_getCpu fun _ =>
      keeps_bind (keeps_push hI _) fun _ => keeps_bind (keeps_updCpu hI _) fun _ =>
        keeps_bind (keeps_memRead hI _ _) fun _ => keeps_bind (keeps_memRead hI _ _) fun _ =>
          keeps_jumpTo hI _

theorem keeps_softwareInterrupt (hI : BusClosed I) : Keeps I softwareInterrupt :=
  keeps_bind (keeps_fetchKind hI _) fun _ => keeps_takeException hI _ _

/-- The entry of an interrupt. -/
theorem keeps_interruptEntry (hI : BusClosed I) (i : Interrupt) : Keeps I (interruptEntry i) :=
  keeps_bind (keeps_dummyPc hI) fun _ => keeps_bind (keeps_dummyPc hI) fun _ =>
    keeps_bind (keeps_updCpu hI _) fun _ => keeps_takeException hI _ _

theorem keeps_resetPush (hI : BusClosed I) : Keeps I resetPush :=
  keeps_bind (keeps_dummyStack hI) fun _ => keeps_updCpu hI _

/-- The reset sequence. -/
theorem keeps_resetSequence (hI : BusClosed I) : Keeps I resetSequence :=
  keeps_bind (keeps_dummyPc hI) fun _ => keeps_bind (keeps_dummyPc hI) fun _ =>
    keeps_bind (keeps_resetPush hI) fun _ => keeps_bind (keeps_resetPush hI) fun _ =>
      keeps_bind (keeps_resetPush hI) fun _ => keeps_bind (keeps_updCpu hI _) fun _ =>
        keeps_bind (keeps_memRead hI _ _) fun _ => keeps_bind (keeps_memRead hI _ _) fun _ =>
          keeps_updCpu hI _

/-- The jammed idle step. -/
theorem keeps_jammedIdle (hI : BusClosed I) : Keeps I jammedIdle := fun s h => hI.cycle s _ h

/-! ## Instructions -/

/-- An instruction whose part keeps `I`. -/
theorem outcome_keeps {p : M Unit} {s t : State} (hp : Keeps I p) (hs : I s)
    (h : outcome p s = .next t) : I t := by
  have k := hp s hs
  unfold outcome at h
  cases hr : p s with
  | ok a u => rw [hr] at h k; simp only [Host.Outcome.next.injEq] at h; exact h ▸ k
  | error f u => rw [hr] at h k; simp only [Host.Outcome.next.injEq] at h; exact h ▸ k

/-- A part whose fault is recorded. -/
theorem settle_keeps {p : M Unit} (hp : Keeps I p) {s : State} (hs : I s) : I (settle p s) := by
  have k := hp s hs
  unfold settle
  cases hr : p s with
  | ok a u => rw [hr] at k; exact k
  | error f u => rw [hr] at k; exact k

/-- Every instruction keeps what bus accesses and changes of the CPU keep. -/
theorem exec_keeps (hI : BusClosed I) {i : Instr} {s t : State} (hs : I s) (h : exec i s = .next t) :
    I t := by
  cases i with
  | brk =>
    exact outcome_keeps (keeps_softwareInterrupt hI) hs h
  | oraIndx _ | andIndx _ | eorIndx _ | adcIndx _ | ldaIndx _ | laxIndx _ | cmpIndx _ | sbcIndx _ =>
    exact outcome_keeps (keeps_readClass hI (keeps_readIndx hI _)) hs h
  | jam02 | jam12 | clc | nop1A | jam22 | jam32 | sec | nop3A | jam42 | jam52 | cli | nop5A | jam62
  | jam72 | sei | nop7A | dey | txa | jam92 | tya | txs | tay | tax | jamB2 | clv | tsx | iny | dex
  | jamD2 | cld | nopDA | inx | nop | jamF2 | sed | nopFA =>
    exact outcome_keeps (keeps_impliedClass hI) hs h
  | sloIndx _ | rlaIndx _ | sreIndx _ | rraIndx _ | dcpIndx _ | iscIndx _ =>
    exact outcome_keeps (keeps_rmwClass hI (keeps_addrIndx hI _)) hs h
  | nopZp04 _ | oraZp _ | bitZp _ | andZp _ | nopZp44 _ | eorZp _ | nopZp64 _ | adcZp _ | ldyZp _
  | ldaZp _ | ldxZp _ | laxZp _ | cpyZp _ | cmpZp _ | cpxZp _ | sbcZp _ =>
    exact outcome_keeps (keeps_readClass hI (keeps_readZp hI _)) hs h
  | aslZp _ | sloZp _ | rolZp _ | rlaZp _ | lsrZp _ | sreZp _ | rorZp _ | rraZp _ | decZp _
  | dcpZp _ | incZp _ | iscZp _ =>
    exact outcome_keeps (keeps_rmwClass hI (keeps_addrZp _)) hs h
  | php | pha =>
    exact outcome_keeps (keeps_pushClass hI) hs h
  | oraImm _ | ancImm0B _ | andImm _ | ancImm2B _ | eorImm _ | alrImm _ | adcImm _ | arrImm _
  | nopImm80 _ | nopImm82 _ | nopImm89 _ | aneImm _ | ldyImm _ | ldxImm _ | ldaImm _ | lxaImm _
  | cpyImm _ | nopImmC2 _ | cmpImm _ | sbxImm _ | cpxImm _ | nopImmE2 _ | sbcImm _ | usbcImm _ =>
    exact outcome_keeps (keeps_readClass hI (keeps_readImm _)) hs h
  | aslAcc | rolAcc | lsrAcc | rorAcc =>
    exact outcome_keeps (keeps_accumulatorClass hI) hs h
  | nopAbs _ | oraAbs _ | bitAbs _ | andAbs _ | eorAbs _ | adcAbs _ | ldyAbs _ | ldaAbs _
  | ldxAbs _ | laxAbs _ | cpyAbs _ | cmpAbs _ | cpxAbs _ | sbcAbs _ =>
    exact outcome_keeps (keeps_readClass hI (keeps_readAbs hI _)) hs h
  | aslAbs _ | sloAbs _ | rolAbs _ | rlaAbs _ | lsrAbs _ | sreAbs _ | rorAbs _ | rraAbs _
  | decAbs _ | dcpAbs _ | incAbs _ | iscAbs _ =>
    exact outcome_keeps (keeps_rmwClass hI (keeps_addrAbs _)) hs h
  | bplRel _ | bmiRel _ | bvcRel _ | bvsRel _ | bccRel _ | bcsRel _ | bneRel _ | beqRel _ =>
    exact outcome_keeps (keeps_branchClass hI) hs h
  | oraIndy _ | andIndy _ | eorIndy _ | adcIndy _ | ldaIndy _ | laxIndy _ | cmpIndy _ | sbcIndy _ =>
    exact outcome_keeps (keeps_readClass hI (keeps_readIndy hI _)) hs h
  | sloIndy _ | rlaIndy _ | sreIndy _ | rraIndy _ | dcpIndy _ | iscIndy _ =>
    exact outcome_keeps (keeps_rmwClass hI (keeps_addrIndy hI _)) hs h
  | nopZpx14 _ | oraZpx _ | nopZpx34 _ | andZpx _ | nopZpx54 _ | eorZpx _ | nopZpx74 _ | adcZpx _
  | ldyZpx _ | ldaZpx _ | nopZpxD4 _ | cmpZpx _ | nopZpxF4 _ | sbcZpx _ =>
    exact outcome_keeps (keeps_readClass hI (keeps_readZpx hI _)) hs h
  | aslZpx _ | sloZpx _ | rolZpx _ | rlaZpx _ | lsrZpx _ | sreZpx _ | rorZpx _ | rraZpx _
  | decZpx _ | dcpZpx _ | incZpx _ | iscZpx _ =>
    exact outcome_keeps (keeps_rmwClass hI (keeps_addrZpx hI _)) hs h
  | oraAbsy _ | andAbsy _ | eorAbsy _ | adcAbsy _ | ldaAbsy _ | lasAbsy _ | ldxAbsy _ | laxAbsy _
  | cmpAbsy _ | sbcAbsy _ =>
    exact outcome_keeps (keeps_readClass hI (keeps_readAbsy hI _)) hs h
  | sloAbsy _ | rlaAbsy _ | sreAbsy _ | rraAbsy _ | dcpAbsy _ | iscAbsy _ =>
    exact outcome_keeps (keeps_rmwClass hI (keeps_addrAbsy hI _)) hs h
  | nopAbsx1C _ | oraAbsx _ | nopAbsx3C _ | andAbsx _ | nopAbsx5C _ | eorAbsx _ | nopAbsx7C _
  | adcAbsx _ | ldyAbsx _ | ldaAbsx _ | nopAbsxDC _ | cmpAbsx _ | nopAbsxFC _ | sbcAbsx _ =>
    exact outcome_keeps (keeps_readClass hI (keeps_readAbsx hI _)) hs h
  | aslAbsx _ | sloAbsx _ | rolAbsx _ | rlaAbsx _ | lsrAbsx _ | sreAbsx _ | rorAbsx _ | rraAbsx _
  | decAbsx _ | dcpAbsx _ | incAbsx _ | iscAbsx _ =>
    exact outcome_keeps (keeps_rmwClass hI (keeps_addrAbsx hI _)) hs h
  | jsrAbs _ =>
    exact outcome_keeps (keeps_jumpSubroutine hI) hs h
  | plp | pla =>
    exact outcome_keeps (keeps_pullClass hI) hs h
  | rti =>
    exact outcome_keeps (keeps_returnInterrupt hI) hs h
  | jmpAbs _ =>
    exact outcome_keeps (keeps_jumpAbsolute hI) hs h
  | rts =>
    exact outcome_keeps (keeps_returnSubroutine hI) hs h
  | jmpInd _ =>
    exact outcome_keeps (keeps_jumpIndirect hI) hs h
  | staIndx _ | saxIndx _ =>
    exact outcome_keeps (keeps_writeClass hI (keeps_addrIndx hI _)) hs h
  | styZp _ | staZp _ | stxZp _ | saxZp _ =>
    exact outcome_keeps (keeps_writeClass hI (keeps_addrZp _)) hs h
  | styAbs _ | staAbs _ | stxAbs _ | saxAbs _ =>
    exact outcome_keeps (keeps_writeClass hI (keeps_addrAbs _)) hs h
  | staIndy _ =>
    exact outcome_keeps (keeps_writeClass hI (keeps_addrIndy hI _)) hs h
  | shaIndy _ =>
    exact outcome_keeps (keeps_highStoreInd hI) hs h
  | styZpx _ | staZpx _ =>
    exact outcome_keeps (keeps_writeClass hI (keeps_addrZpx hI _)) hs h
  | stxZpy _ | saxZpy _ =>
    exact outcome_keeps (keeps_writeClass hI (keeps_addrZpy hI _)) hs h
  | staAbsy _ =>
    exact outcome_keeps (keeps_writeClass hI (keeps_addrAbsy hI _)) hs h
  | tasAbsy _ =>
    exact outcome_keeps (keeps_transferAndStore hI) hs h
  | shyAbsx _ | shxAbsy _ | shaAbsy _ =>
    exact outcome_keeps (keeps_highStoreAbs hI) hs h
  | staAbsx _ =>
    exact outcome_keeps (keeps_writeClass hI (keeps_addrAbsx hI _)) hs h
  | ldxZpy _ | laxZpy _ =>
    exact outcome_keeps (keeps_readClass hI (keeps_readZpy hI _)) hs h

end Sys2Proof.Machine
end

