-- ==== Sys2Proof/Laws/Ticks.lean ====
section
/-! SUPPORT. A property of states that every part of an iteration keeps is kept by the whole iteration, so a
property of the boundary's state that has this closure holds after every step. -/

namespace Sys2Proof.Machine

/-- A property that the cycles an iteration passes keep: what every bus access keeps, and the chips' own
cycles, the clock's advance or overflow, and the resolution of the lines. -/
structure TickClosed (I : State → Prop) : Prop extends AccessClosed I where
  timer : ∀ s i t, s.chips[i]? = some (.refTimer t) → I s → I (s.setChip i (.refTimer (refTimerCycle t)))
  timersCount : ∀ s i, I s → I (timersCount i s)
  timersAssert : ∀ s i irq nmi, I s → I (timersAssert i irq nmi s)
  react : ∀ s i cycle granted peeked got, I s → I (chipReact i cycle granted peeked got s)
  videoEnter : ∀ s i cycle, I s → I (videoEnter i cycle s)
  videoLeave : ∀ s i, I s → I (videoLeave i s)
  disk : ∀ s i cycle, I s → I (diskCycle i cycle s)
  advance : ∀ s n, s.clock + n < 2 ^ 64 → I s → I { s with clock := s.clock + n }
  overflow : ∀ s c, I s → I (s.raise (.clockOverflow c))
  resolve : ∀ s, I s → I (resolveLines s)

/-- A property that every part of an iteration keeps: what `BusClosed` and `TickClosed` ask, and the stall
arbiter at its start. -/
structure StepClosed (I : State → Prop) : Prop extends BusClosed I, TickClosed I where
  start : ∀ s, I s → I (startRound s)

variable {I : State → Prop}

/-- A change of the state. -/
theorem keeps_updState {f : State → State} (h : ∀ s, I s → I (f s)) : Keeps I (updState f) :=
  fun s hs => h s hs

/-- A part that first looks at the state. -/
theorem keeps_getState_bind {α : Type} {f : State → M α}
    (h : ∀ s, I s → match f s s with
      | .ok _ t => I t
      | .error e t => I (t.raise e)) : Keeps I (getState >>= f) := h

/-- The bus access of a granted chip. -/
theorem keeps_grantedAccess (hI : AccessClosed I) (i cycle : Nat) (a : Option ChipAccess) :
    Keeps I (grantedAccess i cycle a) := by
  rcases a with _ | ⟨a⟩ | ⟨a, v⟩
  · exact keeps_pure _
  · exact keeps_bind (keeps_busRead hI _ _ _ _) fun _ => keeps_pure _
  · exact keeps_busWrite hI _ _ _ _ _ |> fun h => keeps_bind h fun _ => keeps_pure _

/-- The chip-defined part of a tick cycle. -/
theorem keeps_coreCycle (hI : TickClosed I) (i cycle : Nat) (granted : Bool) :
    Keeps I (coreCycle i cycle granted) := by
  refine keeps_getState_bind fun s hs => ?_
  cases s.chips[i]? with
  | none => exact hs
  | some chip =>
    exact keeps_bind (keeps_grantedAccess hI.toAccessClosed i cycle _)
      (fun got => keeps_bind (keeps_updState fun u hu => hI.videoEnter u i cycle hu) fun _ =>
        keeps_updState fun u hu => hI.react u i cycle granted _ got hu) s hs

/-- One tick cycle of a chip. -/
theorem keeps_chipCycle (hI : TickClosed I) (i cycle : Nat) (granted : Bool) :
    Keeps I (chipCycle i granted cycle) := by
  refine keeps_getState_bind fun s hs => ?_
  have hcore := keeps_coreCycle hI i cycle granted
  cases hc : s.chips[i]? with
  | none => exact hs
  | some chip =>
    cases chip with
    | refTimer t => exact hI.timer s i t hc hs
    | video v core =>
      exact keeps_bind (keeps_updState fun u hu => hI.videoEnter u i cycle hu)
        (fun _ => keeps_bind hcore fun _ => keeps_updState fun u hu => hI.videoLeave u i hu) s hs
    | io timers core =>
      exact keeps_bind (keeps_updState fun u hu => hI.timersCount u i hu)
        (fun _ => keeps_bind hcore fun _ => keeps_updState fun u hu => hI.timersAssert u i _ _ hu) s hs
    | disk r core => exact hcore _ (hI.disk s i cycle hs)
    | audio core => exact hcore s hs
    | other core => exact hcore s hs

/-- The tick of one chip. -/
theorem keeps_tickChip (hI : TickClosed I) (i : Nat) (granted : Bool) (start n : Nat) :
    Keeps I (tickChip i granted start n) := by
  induction n generalizing start with
  | zero => exact keeps_pure _
  | succ n ih => exact keeps_bind (keeps_chipCycle hI i start granted) fun _ => ih (start + 1)

/-- The ticks of every chip. -/
theorem keeps_tickAll (hI : TickClosed I) (holder : Option Nat) (start n : Nat) (order : List Nat) :
    Keeps I (tickAll holder start n order) := by
  induction order with
  | nil => exact keeps_pure _
  | cons i rest ih => exact keeps_bind (keeps_tickChip hI i _ start n) fun _ => ih

/-- The clock's advance. -/
theorem keeps_advance (hI : TickClosed I) (n : Nat) : Keeps I (advance n) := fun s hs => by
  by_cases h : s.clock + n < Config.clockLimit
  · rw [advance, if_pos h]; exact hI.advance s n h hs
  · rw [advance, if_neg h]; exact hI.overflow s _ hs

/-- The end of an iteration. -/
theorem keeps_passCycles (hI : TickClosed I) (holder : Option Nat) (n : Nat) :
    Keeps I (passCycles holder n) :=
  keeps_getState_bind fun s hs => keeps_bind (keeps_advance hI n) (fun _ =>
    keeps_bind (keeps_tickAll hI holder s.clock n _) fun _ => keeps_updState hI.resolve) s hs

/-- The end of a CPU round. -/
theorem finishRound_keeps (hI : StepClosed I) {s : State} (hs : I s) : I (finishRound s) := by
  unfold finishRound
  split
  · exact hs
  · exact settle_keeps (keeps_bind (keeps_passCycles hI.toTickClosed none s.cycle) fun _ =>
      keeps_updState fun u hu => hI.cycle u 0 hu) hs

/-- One iteration of the loop, from the state its boundary leaves (R720). -/
theorem iterate_keeps (hI : StepClosed I) {s t : State} (hs : I s) (h : iterate s = .next t) : I t := by
  unfold iterate at h
  have h0 := hI.start s hs
  split at h
  · split at h
    · rw [← Host.Outcome.next.inj h]
      exact settle_keeps (keeps_passCycles hI.toTickClosed _ _) h0
    · unfold cpuRound at h
      split at h
      · rw [← Host.Outcome.next.inj h]
        exact finishRound_keeps hI (settle_keeps (keeps_resetSequence hI.toBusClosed) h0)
      · rw [← Host.Outcome.next.inj h]
        exact finishRound_keeps hI (settle_keeps (keeps_jammedIdle hI.toBusClosed) h0)
      · rw [← Host.Outcome.next.inj h]
        exact finishRound_keeps hI (settle_keeps (keeps_interruptEntry hI.toBusClosed _) h0)
      · have hf := keeps_fetchInstr hI.toBusClosed _ h0
        split at h
        · rename_i hr
          rw [hr] at hf
          rw [← Host.Outcome.next.inj h]; exact hf
        · rename_i hr
          rw [hr] at hf
          split at h
          · rename_i he
            rw [← Host.Outcome.next.inj h]
            exact finishRound_keeps hI (exec_keeps hI.toBusClosed hf he)
          · exact absurd h (by simp)
          · exact absurd h (by simp)
  all_goals rw [← Host.Outcome.next.inj h]; exact hs

/-- Every instruction answers a next state, from every state (R400). -/
theorem exec_next (i : Instr) (s : State) : ∃ t, exec i s = .next t := by
  cases i <;> first | exact outcome_next _ _ | exact ⟨_, rfl⟩

/-- One step: what the boundary's state has and every part of an iteration keeps holds afterwards; a machine
whose loop does not run does not change. -/
theorem step_keeps (hI : StepClosed I) {s t : State} (hs : s.sched.run ≠ .running → I s)
    (hb : s.sched.run = .running → I (boundary s)) (h : step s = .next t) : I t := by
  unfold step at h
  split at h
  · exact absurd h (by simp)
  · split at h
    · rename_i hr
      exact iterate_keeps hI (hb hr) h
    all_goals
      rename_i hr
      rw [← Host.Outcome.next.inj h]; exact hs (by rw [hr]; simp)

end Sys2Proof.Machine
end

