-- ==== Sys2Proof/Laws/Rounds.lean ====
section
/-! SUPPORT. The boundary keeps the clock, the configuration and the fault; and in a production machine the
cycles an iteration passes always complete, whatever the chips do: every chip ticks once, and the CPU is
left to the resolution of the lines. -/

namespace Sys2Proof.Machine

/-! ## The start of a round and the boundary -/

@[simp] theorem startRound_config (s : State) : (startRound s).config = s.config := rfl
@[simp] theorem startRound_clock (s : State) : (startRound s).clock = s.clock := rfl
@[simp] theorem startRound_cpu (s : State) : (startRound s).cpu = s.cpu := rfl
@[simp] theorem startRound_bus (s : State) : (startRound s).bus = s.bus := rfl
@[simp] theorem startRound_chips (s : State) : (startRound s).chips = s.chips := rfl
@[simp] theorem startRound_cycle (s : State) : (startRound s).cycle = 0 := rfl
@[simp] theorem startRound_run (s : State) : (startRound s).sched.run = s.sched.run := rfl
@[simp] theorem startRound_fault (s : State) : (startRound s).sched.fault = s.sched.fault := rfl

@[simp] theorem honourRequests_config (s : State) : (honourRequests s).config = s.config := by
  unfold honourRequests; dsimp only; split <;> rfl
@[simp] theorem honourRequests_clock (s : State) : (honourRequests s).clock = s.clock := by
  unfold honourRequests; dsimp only; split <;> rfl
@[simp] theorem honourRequests_fault (s : State) : (honourRequests s).sched.fault = s.sched.fault := by
  unfold honourRequests; dsimp only; split <;> rfl

/-- The boundary keeps the configuration (R51). -/
@[simp] theorem boundary_config (s : State) : (boundary s).config = s.config := by
  unfold boundary; split
  · rfl
  · exact honourRequests_config s

/-- The boundary takes no time (R750). -/
@[simp] theorem boundary_clock (s : State) : (boundary s).clock = s.clock := by
  unfold boundary; split
  · rfl
  · exact honourRequests_clock s

/-- The boundary raises and clears no fault. -/
@[simp] theorem boundary_fault (s : State) : (boundary s).sched.fault = s.sched.fault := by
  unfold boundary; split
  · rfl
  · exact honourRequests_fault s

/-- A stall the arbiter takes is active: its window has begun and has not elapsed (R732). -/
theorem takeStall_active {now : Nat} {stalls : List Stall} {st : Stall}
    (h : (takeStall now stalls).1 = some st) :
    st.fromCycle ≤ now ∧ now < st.fromCycle + st.duration := by
  have key : ∀ (l : List Stall) x o, takeActive now l = some (x, o) → x ∈ l ∧ x.fromCycle ≤ now := by
    intro l
    induction l with
    | nil => simp [takeActive]
    | cons a l ih =>
      intro x o hx
      rw [takeActive] at hx
      split at hx
      · simp only [Option.some.injEq, Prod.mk.injEq] at hx
        exact ⟨by simp [hx.1], by rw [← hx.1]; assumption⟩
      · split at hx
        · rename_i t others ht
          simp only [Option.some.injEq, Prod.mk.injEq] at hx
          obtain ⟨h1, h2⟩ := ih _ _ ht
          rw [← hx.1]
          exact ⟨List.mem_cons_of_mem _ h1, h2⟩
        · simp at hx
  unfold takeStall at h
  dsimp only at h
  split at h
  · rename_i t others ht
    simp only [Option.some.injEq] at h
    subst h
    obtain ⟨h1, h2⟩ := key _ _ _ ht
    have := (List.mem_filter.1 h1).2
    simp only [Stall.elapsed, Bool.not_eq_true', decide_eq_false_iff_not] at this
    exact ⟨h2, by omega⟩
  · simp at h

/-! ## What passing cycles leaves alone -/

/-- A change that leaves the CPU, the clock, the configuration and the fault alone. -/
def Aside (s t : State) : Prop :=
  t.config = s.config ∧ t.cpu = s.cpu ∧ t.clock = s.clock ∧ t.sched.fault = s.sched.fault

/-- Two such changes. -/
theorem Aside.trans {s t u : State} (h : Aside s t) (k : Aside t u) : Aside s u :=
  ⟨k.1.trans h.1, k.2.1.trans h.2.1, k.2.2.1.trans h.2.2.1, k.2.2.2.trans h.2.2.2⟩

/-- No change. -/
theorem Aside.refl (s : State) : Aside s s := ⟨rfl, rfl, rfl, rfl⟩

theorem registerRead_aside (i off t : Nat) (s : State) : Aside s (registerRead i off t s).2 := by
  unfold registerRead
  split
  · exact Aside.refl s
  · exact ⟨rfl, rfl, rfl, rfl⟩
  · exact ⟨rfl, rfl, rfl, rfl⟩

theorem registerWrite_aside (i off t : Nat) (v : Byte) (s : State) : Aside s (registerWrite i off t v s) := by
  unfold registerWrite
  split
  · exact Aside.refl s
  · exact ⟨rfl, rfl, rfl, rfl⟩
  · exact ⟨rfl, rfl, rfl, rfl⟩

theorem videoEnter_aside (i cycle : Nat) (s : State) : Aside s (videoEnter i cycle s) := by
  unfold videoEnter
  split
  · exact ⟨rfl, rfl, rfl, rfl⟩
  · exact Aside.refl s

theorem timersCount_aside (i : Nat) (s : State) : Aside s (timersCount i s) := by
  unfold timersCount
  split
  · exact ⟨rfl, rfl, rfl, rfl⟩
  · exact Aside.refl s

theorem timersAssert_aside (i : Nat) (irq nmi : Bool) (s : State) : Aside s (timersAssert i irq nmi s) := by
  unfold timersAssert
  split
  · exact ⟨rfl, rfl, rfl, rfl⟩
  · exact Aside.refl s

theorem chipReact_aside (i cycle : Nat) (granted : Bool) (peeked : List Byte) (got : Option Byte)
    (s : State) : Aside s (chipReact i cycle granted peeked got s) := by
  unfold chipReact
  split
  · exact Aside.refl s
  · exact ⟨rfl, rfl, rfl, rfl⟩

theorem videoLeave_aside (i : Nat) (s : State) : Aside s (videoLeave i s) := by
  unfold videoLeave
  split
  · exact ⟨rfl, rfl, rfl, rfl⟩
  · exact Aside.refl s

theorem runDiskCells_aside (i cycle n : Nat) (s : State) : Aside s (runDiskCells i cycle n s) := by
  induction n generalizing s with
  | zero => exact Aside.refl s
  | succ n ih =>
    unfold runDiskCells
    split
    · exact Aside.trans ⟨rfl, rfl, rfl, rfl⟩ (ih _)
    · exact Aside.refl s

theorem diskCycle_aside (i cycle : Nat) (s : State) : Aside s (diskCycle i cycle s) := by
  unfold diskCycle
  split
  · exact Aside.trans ⟨rfl, rfl, rfl, rfl⟩ (runDiskCells_aside _ _ _ _)
  · exact Aside.refl s

/-- `p` completes from every state of a production machine and leaves aside what `Aside` names. -/
def Passes {α : Type} (p : M α) : Prop :=
  ∀ s, s.production → ∃ a t, p s = .ok a t ∧ Aside s t

/-- A value. -/
theorem Passes.pure {α : Type} (a : α) : Passes (Pure.pure a : M α) := fun s _ => ⟨a, s, rfl, Aside.refl s⟩

/-- A sequence. -/
theorem Passes.bind {α β : Type} {p : M α} {f : α → M β} (h : Passes p) (k : ∀ a, Passes (f a)) :
    Passes (p >>= f) := fun s hs => by
  obtain ⟨a, t, h1, h2⟩ := h s hs
  obtain ⟨b, u, h3, h4⟩ := k a t (by rw [State.production, h2.1]; exact hs)
  exact ⟨b, u, by rw [bind_ok h1, h3], h2.trans h4⟩

/-- A change of the state. -/
theorem Passes.updState {f : State → State} (h : ∀ s, Aside s (f s)) : Passes (Machine.updState f) :=
  fun s _ => ⟨(), f s, rfl, h s⟩

/-- A part that first looks at the state. -/
theorem Passes.getState {α : Type} {f : State → M α} (h : ∀ s, Passes (f s)) :
    Passes (Machine.getState >>= f) := fun s hs => h s s hs

/-- The bus access of a granted chip. -/
theorem passes_grantedAccess (i cycle : Nat) (a : Option ChipAccess) : Passes (grantedAccess i cycle a) := by
  rcases a with _ | ⟨a⟩ | ⟨a, v⟩
  · exact Passes.pure _
  · refine Passes.bind (fun s hs => ?_) fun _ => Passes.pure _
    obtain ⟨v, u, h, hb⟩ := busRead_ok hs (.chip i) .data cycle a
    exact ⟨v, u, h, hb.frame.others.config, hb.frame.cpu, hb.frame.others.clock, hb.frame.others.fault⟩
  · refine Passes.bind (fun s hs => ?_) fun _ => Passes.pure _
    unfold busWrite
    dsimp only
    split
    · exact ⟨(), _, rfl, rfl, rfl, rfl, rfl⟩
    · exact ⟨(), _, rfl, rfl, rfl, rfl, rfl⟩
    · exact ⟨(), _, rfl, (registerWrite_aside _ _ cycle v s).trans ⟨rfl, rfl, rfl, rfl⟩⟩
    · rw [if_neg (by rw [hs]; simp)]
      exact ⟨(), _, rfl, rfl, rfl, rfl, rfl⟩

/-- The chip-defined part of a tick cycle. -/
theorem passes_coreCycle (i cycle : Nat) (granted : Bool) : Passes (coreCycle i cycle granted) := by
  refine Passes.getState fun s0 => ?_
  cases s0.chips[i]? with
  | none => exact Passes.pure _
  | some chip =>
    exact Passes.bind (passes_grantedAccess i cycle _) fun got =>
      Passes.bind (Passes.updState (videoEnter_aside i cycle)) fun _ =>
        Passes.updState (chipReact_aside i cycle granted _ got)

/-- One tick cycle of a chip. -/
theorem passes_chipCycle (i cycle : Nat) (granted : Bool) : Passes (chipCycle i granted cycle) := by
  refine Passes.getState fun s0 => ?_
  cases s0.chips[i]? with
  | none => exact Passes.pure _
  | some chip =>
    cases chip with
    | refTimer t => exact Passes.updState fun s => ⟨rfl, rfl, rfl, rfl⟩
    | video v core =>
      exact Passes.bind (Passes.updState (videoEnter_aside i cycle)) fun _ =>
        Passes.bind (passes_coreCycle i cycle granted) fun _ => Passes.updState (videoLeave_aside i)
    | io timers core =>
      exact Passes.bind (Passes.updState (timersCount_aside i)) fun _ =>
        Passes.bind (passes_coreCycle i cycle granted) fun _ => Passes.updState (timersAssert_aside i _ _)
    | disk r core =>
      exact Passes.bind (Passes.updState (diskCycle_aside i cycle)) fun _ => passes_coreCycle i cycle granted
    | audio core => exact passes_coreCycle i cycle granted
    | other core => exact passes_coreCycle i cycle granted

/-- The tick of one chip. -/
theorem passes_tickChip (i : Nat) (granted : Bool) (start n : Nat) : Passes (tickChip i granted start n) := by
  induction n generalizing start with
  | zero => exact Passes.pure _
  | succ n ih => exact Passes.bind (passes_chipCycle i start granted) fun _ => ih _

/-- The ticks of every chip. -/
theorem passes_tickAll (holder : Option Nat) (start n : Nat) (order : List Nat) :
    Passes (tickAll holder start n order) := by
  induction order with
  | nil => exact Passes.pure _
  | cons i rest ih => exact Passes.bind (passes_tickChip i _ start n) fun _ => ih

/-! ## The rendering pipeline -/

/-- A value that enters the pipeline is there, or one of its register from a later cycle is (R711). -/
theorem enterPipeline_latest (p : PipelineValue) (l : List PipelineValue) :
    ∃ q ∈ enterPipeline p l, q.offset = p.offset ∧ p.since ≤ q.since := by
  induction l with
  | nil => exact ⟨p, by simp [enterPipeline], rfl, Nat.le_refl _⟩
  | cons q rest ih =>
    rw [enterPipeline]
    split
    · exact ⟨p, by simp, rfl, Nat.le_refl _⟩
    · split
      · rename_i ho
        split
        · exact ⟨p, by simp, rfl, Nat.le_refl _⟩
        · exact ⟨q, by simp, ho.symm, by omega⟩
      · obtain ⟨r, hr, h1, h2⟩ := ih
        exact ⟨r, by simp [hr], h1, h2⟩

/-- A value of the pipeline is what entered or what was there (R711). -/
theorem mem_enterPipeline {p q : PipelineValue} {l : List PipelineValue} (h : q ∈ enterPipeline p l) :
    q = p ∨ q ∈ l := by
  induction l with
  | nil => exact .inl (by simpa [enterPipeline] using h)
  | cons r rest ih =>
    rw [enterPipeline] at h
    split at h
    · simpa using h
    · split at h
      · split at h
        · rcases List.mem_cons.1 h with h | h
          · exact .inl h
          · exact .inr (List.mem_cons_of_mem _ h)
        · exact .inr h
      · rcases List.mem_cons.1 h with h | h
        · exact .inr (by simp [h])
        · exact (ih h).imp_right (List.mem_cons_of_mem _)

/-! ## The ticks of an iteration -/

/-- Ticks that complete are those of `TicksOnce`, over the chips from `lo` on. -/
theorem tickAll_chain (holder : Option Nat) (start n : Nat) : ∀ (len lo : Nat) {s t : State},
    tickAll holder start n (List.range' lo len) s = .ok () t →
    ∃ after : Nat → State, after lo = s ∧ after (lo + len) = t ∧ ∀ i, lo ≤ i → i < lo + len →
      tickChip i (decide (holder = some i)) start n (after i) = .ok () (after (i + 1)) := by
  intro len
  induction len with
  | zero => intro lo s t h; cases h; exact ⟨fun _ => s, rfl, rfl, fun i h1 h2 => by omega⟩
  | succ len ih =>
    intro lo s t h
    have hb : (holder == some lo) = decide (holder = some lo) := by rw [Bool.eq_iff_iff]; simp
    rw [List.range'_succ, tickAll, hb, bind_apply] at h
    cases hc : tickChip lo (decide (holder = some lo)) start n s with
    | error e u => rw [hc] at h; simp at h
    | ok a u =>
      rw [hc] at h
      obtain ⟨f, h1, h2, h3⟩ := ih (lo + 1) h
      refine ⟨fun i => if i = lo then s else f i, if_pos rfl, ?_, fun i hi hlt => ?_⟩
      · rw [← h2, Nat.add_right_comm]; exact if_neg (by omega)
      · by_cases e : i = lo
        · subst e; simpa [h1] using hc
        · simpa [e, show i + 1 ≠ lo by omega] using h3 i (by omega) (by omega)

/-- In a production machine with room on the clock, what `passCycles` does: the clock moves by `n`, then the
chips tick, then the lines are resolved; in the chip order of R724 every chip ticks once. -/
theorem passCycles_ticks {s : State} (hp : s.production) (holder : Option Nat) {n : Nat}
    (hn : s.clock + n < 2 ^ 64) :
    ∃ v, passCycles holder n s = .ok () (resolveLines v) ∧ Aside { s with clock := s.clock + n } v
      ∧ tickAll holder s.clock n s.config.chipOrder { s with clock := s.clock + n } = .ok () v
      ∧ (s.config.chipOrder = List.range s.config.chips.length →
        TicksOnce holder s.clock n { s with clock := s.clock + n } v) := by
  obtain ⟨_, v, h, hv⟩ := passes_tickAll holder s.clock n s.config.chipOrder
    { s with clock := s.clock + n } hp
  refine ⟨v, ?_, hv, h, fun ho => ?_⟩
  · show (advance n >>= fun _ => tickAll holder s.clock n s.config.chipOrder >>= fun _ =>
      updState resolveLines) s = _
    have ha : advance n s = .ok () { s with clock := s.clock + n } := by
      rw [advance, if_pos (show s.clock + n < Config.clockLimit from hn)]
    rw [bind_ok ha, bind_ok h]
    rfl
  · rw [ho, List.range_eq_range'] at h
    obtain ⟨f, k1, k2, k3⟩ := tickAll_chain _ _ _ _ _ h
    exact ⟨f, k1, by rwa [Nat.zero_add] at k2, fun i hi => k3 i (Nat.zero_le _) (by simpa using hi)⟩

/-- In a production machine with room on the clock, `n` cycles pass: the clock is `n` later, and the CPU
changes in its interrupt inputs alone (R53, R720, R740). -/
theorem passCycles_completes {s : State} (hp : s.production) (holder : Option Nat) {n : Nat}
    (hn : s.clock + n < 2 ^ 64) :
    Completes (passCycles holder n) s fun _ t => t.config = s.config ∧ t.clock = s.clock + n
      ∧ t.sched.fault = s.sched.fault
      ∧ t.cpu = { s.cpu with
          irqIn := t.sched.irqRes
          nmiIn := t.sched.nmiRes
          nmiPrev := t.sched.nmiRes
          nmiPending := s.cpu.nmiPending || (t.sched.nmiRes && !s.cpu.nmiPrev) } := by
  obtain ⟨v, h, ⟨h1, h2, h3, h4⟩, _⟩ := passCycles_ticks hp holder hn
  exact ⟨(), resolveLines v, h, h1, h3, h4, by simp only [resolveLines, h2]⟩

end Sys2Proof.Machine
end

