-- ==== Sys2Proof/Laws/Snapshot.lean ====
section
/-! SUPPORT. Every item of a snapshot reads back as it was saved: the little-endian integers, the lists, and
the items of each payload. -/

namespace Sys2Proof.Machine

/-! ## Integers -/

/-- `n` bytes are `n` bytes. -/
@[simp] theorem length_leBytes (n v : Nat) : (leBytes n v).length = n := by
  induction n generalizing v with
  | zero => rfl
  | succ n ih => simp [leBytes, ih]

/-- A number that fits `n` bytes is the value of its `n` bytes (R805). -/
theorem leValue_leBytes {n v : Nat} (h : v < 2 ^ (8 * n)) : leValue (leBytes n v) = v := by
  induction n generalizing v with
  | zero => simp [leBytes, leValue] at h ⊢; omega
  | succ n ih =>
    have hp : 2 ^ (8 * (n + 1)) = 2 ^ (8 * n) * 256 := by rw [Nat.mul_add, Nat.pow_add]
    rw [leBytes, leValue, ih (by omega), BitVec.toNat_ofNat]
    omega

/-- An integer reads back, whatever follows (R805). -/
theorem readUint_leBytes {n v : Nat} (h : v < 2 ^ (8 * n)) (rest : List Byte) :
    readUint n (leBytes n v ++ rest) = some (v, rest) := by
  have hl := length_leBytes n v
  rw [readUint, if_neg (by rw [List.length_append, hl]; omega), List.take_left' hl, List.drop_left' hl,
    leValue_leBytes h]

/-- A `bool` reads back (R805). -/
theorem readBool_boolByte (b : Bool) (rest : List Byte) : readBool (boolByte b ++ rest) = some (b, rest) := by
  cases b <;> rfl

/-! ## Lists -/

/-- A list of items reads back where each item does (R811 to R814, R824). -/
theorem readItems_map {α : Type} {item : List Byte → Option (α × List Byte)} {save : α → List Byte}
    {xs : List α} (h : ∀ x ∈ xs, ∀ rest, item (save x ++ rest) = some (x, rest)) (rest : List Byte) :
    readItems item xs.length ((xs.map save).flatten ++ rest) = some (xs, rest) := by
  induction xs with
  | nil => rfl
  | cons x xs ih =>
    have h1 := h x (List.mem_cons_self ..)
    have h2 := ih fun y hy => h y (List.mem_cons_of_mem _ hy)
    simp only [List.map_cons, List.flatten_cons, List.append_assoc, List.length_cons, readItems, h1,
      Option.bind_eq_bind, Option.bind_some, h2]

/-- A counted list reads back. -/
theorem readList_saveList {α : Type} {item : List Byte → Option (α × List Byte)} {save : α → List Byte}
    {xs : List α} (hn : xs.length < 2 ^ 16)
    (h : ∀ x ∈ xs, ∀ rest, item (save x ++ rest) = some (x, rest)) (rest : List Byte) :
    readList item (saveList save xs ++ rest) = some (xs, rest) := by
  rw [readList, saveList, List.append_assoc, readUint_leBytes hn]
  exact readItems_map h rest

/-! ## Items -/

/-- A mapping reads back (R811). -/
theorem readMapping_saveMapping {m : Mapping} (hl : m.length < 2 ^ 32) (ho : m.owner < 2 ^ 16)
    (rest : List Byte) : readMapping (saveMapping m ++ rest) = some (m, rest) := by
  have hs : m.start.toNat < 2 ^ (8 * 2) := m.start.isLt
  have hk : mapKindCode m.kind < 2 ^ (8 * 1) := by cases m.kind <;> decide
  have hc : mapKindOf (mapKindCode m.kind) = some m.kind := by cases m.kind <;> rfl
  simp only [readMapping, saveMapping, List.append_assoc, readUint_leBytes hs,
    readUint_leBytes (n := 4) hl, readUint_leBytes hk, readUint_leBytes (n := 2) ho, hc,
    Option.bind_eq_bind, Option.bind_some, BitVec.ofNat_toNat, BitVec.setWidth_eq]

/-- The bytes of an offset range of a canonical memory make the memory of that range. -/
theorem Memory.ofBytesFrom_bytesFrom (m : Memory) (off n : Nat) (hw : Memory.wfFrom off m = true)
    (hb : ∀ c ∈ m, c.1 < off + n) : Memory.ofBytesFrom off (m.bytesFrom off n) = m := by
  induction n generalizing off m with
  | zero =>
    cases m with
    | nil => rfl
    | cons c m =>
      obtain ⟨a, v⟩ := c
      have h1 := hb (a, v) (List.mem_cons_self ..)
      simp only [Memory.wfFrom, Bool.and_eq_true, decide_eq_true_eq] at hw
      have h2 := hw.1.1
      dsimp only at h1
      omega
  | succ n ih =>
    rw [Memory.bytesFrom, Memory.ofBytesFrom]
    cases m with
    | nil =>
      rw [if_pos (show Memory.read [] off = Memory.unlisted from rfl)]
      exact ih [] (off + 1) rfl (by simp)
    | cons c m =>
      obtain ⟨a, v⟩ := c
      simp only [Memory.wfFrom, Bool.and_eq_true, decide_eq_true_eq] at hw
      obtain ⟨⟨h1, h2⟩, h3⟩ := hw
      by_cases he : off = a
      · subst he
        have hr : Memory.read ((off, v) :: m) off = v := by simp [Memory.read]
        rw [hr, if_neg h2]
        have hm : ∀ k o, off < o → Memory.bytesFrom ((off, v) :: m) o k = Memory.bytesFrom m o k := by
          intro k
          induction k with
          | zero => intros; rfl
          | succ k ihk =>
            intro o ho
            rw [Memory.bytesFrom, Memory.bytesFrom, ihk _ (by omega), Memory.read, if_neg (by omega)]
        rw [hm n (off + 1) (by omega), ih m (off + 1) h3 (fun c hc => by
          have := hb c (List.mem_cons_of_mem _ hc); omega)]
      · have hr : Memory.read ((a, v) :: m) off = Memory.unlisted :=
          Memory.read_below (lo := a) (by simp [Memory.wfFrom, h2, h3]) (by omega)
        rw [hr, if_pos rfl]
        exact ih _ (off + 1) (by simp only [Memory.wfFrom, Bool.and_eq_true, decide_eq_true_eq]; exact ⟨⟨by omega, h2⟩, h3⟩)
          (fun c hc => by have := hb c hc; omega)

@[simp] theorem Memory.length_bytesFrom (m : Memory) (off n : Nat) : (m.bytesFrom off n).length = n := by
  induction n generalizing off with
  | zero => rfl
  | succ n ih => rw [Memory.bytesFrom, List.length_cons, ih]

/-- A store reads back (R812). -/
theorem readStore_saveStore {st : Store} (hi : st.id < 2 ^ 16) (hs : st.size < 2 ^ 32)
    (hw : st.bytes.wf = true) (hb : ∀ c ∈ st.bytes, c.1 < st.size) (rest : List Byte) :
    readStore (saveStore st ++ rest) = some (st, rest) := by
  have hk : storeKindCode st.kind < 2 ^ (8 * 1) := by cases st.kind <;> decide
  have hc : storeKindOf (storeKindCode st.kind) = some st.kind := by cases st.kind <;> rfl
  have hl := Memory.length_bytesFrom st.bytes 0 st.size
  simp only [readStore, saveStore, List.append_assoc, readUint_leBytes (n := 2) hi, readUint_leBytes hk,
    readUint_leBytes (n := 4) hs, hc, Option.bind_eq_bind, Option.bind_some]
  rw [if_neg (by rw [List.length_append, hl]; omega), List.take_left' hl, List.drop_left' hl,
    Memory.ofBytesFrom_bytesFrom st.bytes 0 st.size hw (by simpa using hb)]

/-- A bank switch reads back (R813). -/
theorem readSwitch_saveSwitch {b : BankSwitch} (he : b.effectiveCycle < 2 ^ 64) (ht : b.table < 2 ^ 16)
    (rest : List Byte) : readSwitch (saveSwitch b ++ rest) = some (b, rest) := by
  simp only [readSwitch, saveSwitch, List.append_assoc, readUint_leBytes (n := 8) he,
    readUint_leBytes (n := 2) ht, Option.bind_eq_bind, Option.bind_some]

/-- A sound mapping of a configuration whose numbers fit their fields fits the record of R811. -/
theorem mappingOk_fits {c : MachineConfig} {m : Mapping} (hw : widthsOk c = true)
    (h : mappingOk c m = true) : m.length < 2 ^ 32 ∧ m.owner < 2 ^ 16 := by
  have hid : ∀ kind, storeHolds c m.owner kind m.length = true → m.owner < 2 ^ 16 := fun kind hk => by
    unfold storeHolds at hk
    generalize hf : c.stores.find? (fun st => st.id == m.owner) = o at hk
    cases o with
    | none => exact absurd hk (by simp)
    | some st =>
      have h1 : st.id = m.owner := by simpa using List.find?_some hf
      have h2 := List.mem_of_find?_eq_some hf
      simp only [widthsOk, Bool.and_eq_true, List.all_eq_true, decide_eq_true_eq] at hw
      exact h1 ▸ (hw.1.1.1 st h2).1
  simp only [mappingOk, Bool.and_eq_true, decide_eq_true_eq] at h
  refine ⟨by omega, ?_⟩
  have h2 := h.2
  cases hk : m.kind with
  | ram => rw [hk] at h2; exact hid _ h2
  | rom => rw [hk] at h2; exact hid _ h2
  | ioWindow =>
    rw [hk] at h2
    simp only [widthsOk, Bool.and_eq_true, decide_eq_true_eq] at hw h2
    omega

/-- A mapping event that may be queued reads back (R814). -/
theorem readEvent_saveEvent {c : MachineConfig} {e : MapEvent} (hw : widthsOk c = true)
    (h : mapEventOk c e = true) (rest : List Byte) : readEvent (saveEvent e ++ rest) = some (e, rest) := by
  cases e with
  | install m =>
    have h := mappingOk_fits hw h
    simp only [readEvent, saveEvent, List.append_assoc, readUint_leBytes (n := 1) (v := 1) (by decide),
      Option.bind_eq_bind, Option.bind_some, readMapping_saveMapping h.1 h.2]
  | remove r =>
    have k := readMapping_saveMapping (m := { start := r.start, length := r.length, kind := .ram, owner := 0 })
      (by simpa [mapEventOk] using h) (show 0 < 2 ^ 16 by decide) rest
    simp only [saveMapping, mapKindCode, List.append_assoc] at k
    simp only [readEvent, saveEvent, List.append_assoc, readUint_leBytes (n := 1) (v := 2) (by decide),
      Option.bind_eq_bind, Option.bind_some, k, and_self, if_true]

/-- A stall reads back (R824). -/
theorem readStall_saveStall {st : Stall} (hf : st.fromCycle < 2 ^ 64) (hd : st.duration < 2 ^ 32)
    (hc : st.chip < 2 ^ 16) (rest : List Byte) : readStall (saveStall st ++ rest) = some (st, rest) := by
  simp only [readStall, saveStall, List.append_assoc, readUint_leBytes (n := 8) hf,
    readUint_leBytes (n := 4) hd, readUint_leBytes (n := 2) hc, Option.bind_eq_bind, Option.bind_some]

/-! ## Chips -/

/-- A number of any size reads back. -/
theorem readNat_natBytes (n : Nat) (rest : List Byte) : readNat (natBytes n ++ rest) = some (n, rest) := by
  have ones : ∀ (k : Nat) (bs : List Byte),
      readOnes (List.replicate k 0x01#8 ++ 0x00#8 :: bs) = some (k, bs) := by
    intro k bs
    induction k with
    | zero => rfl
    | succ k ih => rw [List.replicate_succ, List.cons_append, readOnes, ih]; rfl
  have fits : n < 2 ^ (8 * (n.log2 / 8 + 1)) :=
    Nat.lt_of_lt_of_le (Nat.lt_log2_self (n := n)) (Nat.pow_le_pow_right (by decide) (by omega))
  simp only [readNat, natBytes, List.append_assoc, List.cons_append, ones, Option.bind_eq_bind,
    Option.bind_some, readUint_leBytes fits]

/-- A sequence reads back where each item does. -/
theorem readSeq_seqBytes {α : Type} {item : List Byte → Option (α × List Byte)} {save : α → List Byte}
    {xs : List α} (h : ∀ x ∈ xs, ∀ rest, item (save x ++ rest) = some (x, rest)) (rest : List Byte) :
    readSeq item (seqBytes save xs ++ rest) = some (xs, rest) := by
  simp only [readSeq, seqBytes, List.append_assoc, readNat_natBytes, Option.bind_eq_bind, Option.bind_some,
    readItems_map h]

/-- A byte array reads back. -/
theorem readSeq_arrayBytes (bs rest : List Byte) :
    readSeq readByte (arrayBytes bs ++ rest) = some (bs, rest) :=
  readSeq_seqBytes (fun _ _ _ => rfl) rest

/-- A latched register value reads back. -/
theorem readValue_valueBytes (p : PipelineValue) (rest : List Byte) :
    readValue (valueBytes p ++ rest) = some (p, rest) := by
  simp only [readValue, valueBytes, List.append_assoc, readNat_natBytes, Option.bind_eq_bind, Option.bind_some,
    List.cons_append, List.nil_append, readByte]

/-- A write that is not latched yet reads back. -/
theorem readLatch_latchBytes (w : LatchedWrite) (rest : List Byte) :
    readLatch (latchBytes w ++ rest) = some (w, rest) := by
  simp only [readLatch, latchBytes, List.append_assoc, readNat_natBytes, Option.bind_eq_bind,
    Option.bind_some, List.cons_append, List.nil_append, readByte]

/-- A down-counter reads back. -/
theorem readCounter_counterBytes (d : DownCounter) (rest : List Byte) :
    readCounter (counterBytes d ++ rest) = some (d, rest) := by
  simp only [readCounter, counterBytes, List.append_assoc, readNat_natBytes, readBool_boolByte,
    Option.bind_eq_bind, Option.bind_some]

/-- The register bank and the lines read back. -/
theorem readCore_coreBytes (core : ChipCore) (rest : List Byte) :
    readCore (coreBytes core ++ rest) = some (core, rest) := by
  simp only [readCore, coreBytes, List.append_assoc, readSeq_arrayBytes, readBool_boolByte,
    Option.bind_eq_bind, Option.bind_some]

/-- The raster reads back. -/
theorem readRaster_rasterBytes (v : VideoState) (rest : List Byte) :
    readRaster (rasterBytes v ++ rest) = some (v, rest) := by
  simp only [readRaster, rasterBytes, List.append_assoc, readNat_natBytes, readSeq_arrayBytes,
    readSeq_seqBytes (fun p _ => readValue_valueBytes p), readSeq_seqBytes (fun w _ => readLatch_latchBytes w),
    Option.bind_eq_bind, Option.bind_some]

/-- Every field of a chip other than the reference timer reads back. -/
theorem readFields_chipBytes {spec : ChipSpec} {c : Chip} (h : chipInRange spec c = true)
    (ht : spec ≠ .refTimer) : readFields spec (chipBytes c) = some (c, []) := by
  have core : ∀ core, readCore (coreBytes core) = some (core, []) := fun core => by
    simpa using readCore_coreBytes core []
  cases spec <;> cases c <;>
    first
    | (simp only [chipInRange, Bool.false_eq_true] at h; done)
    | exact absurd rfl ht
    | simp only [readFields, chipBytes, readRaster_rasterBytes, readNat_natBytes,
        readSeq_seqBytes (fun d _ => readCounter_counterBytes d), core, Option.bind_eq_bind,
        Option.bind_some]

/-- The payload of a reference timer reads back (R928). -/
theorem readRefTimer_saveRefTimer {t : RefTimer} (h : t.ctrl &&& 0xF0#8 = 0#8) :
    readRefTimer (saveRefTimer t) = some t := by
  obtain ⟨latch, counter, ctrl, evt⟩ := t
  cases evt <;> simp [readRefTimer, saveRefTimer, bitByte, mkWord_bytes] <;> simpa using h

/-- A chip reads back what it saves (R800, R820, R850). -/
theorem readChip_saveChip {spec : ChipSpec} {c : Chip} (i : Nat) (h : chipInRange spec c = true) :
    readChip spec i (saveChip i c) = some c := by
  have other : spec ≠ .refTimer → exactly (readFields spec (chipBytes c)) = some c := fun ht => by
    rw [readFields_chipBytes h ht]; rfl
  cases spec with
  | refTimer =>
    cases c with
    | refTimer t =>
      have ht : t.ctrl &&& 0xF0#8 = 0#8 := by simpa [chipInRange] using h
      simp only [readChip, saveChip, readRefTimer_saveRefTimer ht, Option.map_some, Option.filter_some, h,
        beq_self_eq_true, Bool.and_self, if_true]
    | video _ _ | io _ _ | disk _ _ | audio _ | other _ => exact Bool.noConfusion h
  | video _ _ _ | io _ _ | disk _ _ _ | audio _ | other _ =>
    cases c <;>
      first
      | exact Bool.noConfusion h
      | simp only [readChip, saveChip, Equiv.symm_apply_apply, other (by simp), Option.filter_some, h,
          beq_self_eq_true, Bool.and_self, if_true]

/-- What a chip's `load_state` accepts, and what it gives: exactly the payloads `save_state` writes for a
chip of the configured kind in range (R833, R710, R713). -/
theorem readChip_iff {spec : ChipSpec} {i : Nat} {bs : List Byte} {c : Chip} :
    readChip spec i bs = some c ↔ chipInRange spec c = true ∧ saveChip i c = bs := by
  refine ⟨fun h => ?_, fun ⟨h, hb⟩ => hb ▸ readChip_saveChip i h⟩
  have hc := (Option.filter_eq_some_iff.1 h).2
  rwa [Bool.and_eq_true, beq_iff_eq] at hc

/-! ## The CPU and the records -/

/-- The CPU payload reads back (R822). -/
theorem readCpu_saveCpu (c : Cpu) : readCpu (saveCpu c) = some c := by
  obtain ⟨a, x, y, s, pc, n, v, d, i, z, cc, rp, j, ii, ni, np, npd⟩ := c
  have hp : ∀ b0 b1 b2 b3 b4 b5 : Bool,
      (Cpu.pByte false ⟨a, x, y, s, pc, b0, b1, b2, b3, b4, b5, rp, j, ii, ni, np, npd⟩).getLsbD 7 = b0
      ∧ (Cpu.pByte false ⟨a, x, y, s, pc, b0, b1, b2, b3, b4, b5, rp, j, ii, ni, np, npd⟩).getLsbD 6 = b1
      ∧ (Cpu.pByte false ⟨a, x, y, s, pc, b0, b1, b2, b3, b4, b5, rp, j, ii, ni, np, npd⟩).getLsbD 3 = b2
      ∧ (Cpu.pByte false ⟨a, x, y, s, pc, b0, b1, b2, b3, b4, b5, rp, j, ii, ni, np, npd⟩).getLsbD 2 = b3
      ∧ (Cpu.pByte false ⟨a, x, y, s, pc, b0, b1, b2, b3, b4, b5, rp, j, ii, ni, np, npd⟩).getLsbD 1 = b4
      ∧ (Cpu.pByte false ⟨a, x, y, s, pc, b0, b1, b2, b3, b4, b5, rp, j, ii, ni, np, npd⟩).getLsbD 0 = b5 := by
    simp only [Cpu.pByte]; decide
  have hi : ∀ b0 b1 b2 b3 b4 b5 : Bool, ∀ w : Byte, w = (bitByte b0 ||| (bitByte b1 <<< 1) ||| (bitByte b2 <<< 2)
      ||| (bitByte b3 <<< 3) ||| (bitByte b4 <<< 4) ||| (bitByte b5 <<< 5)) →
      w.getLsbD 6 = false ∧ w.getLsbD 7 = false ∧ w.getLsbD 0 = b0 ∧ w.getLsbD 1 = b1 ∧ w.getLsbD 2 = b2
      ∧ w.getLsbD 3 = b3 ∧ w.getLsbD 4 = b4 ∧ w.getLsbD 5 = b5 := by
    intro b0 b1 b2 b3 b4 b5 w hw
    subst hw; clear hp; revert b0 b1 b2 b3 b4 b5; decide
  obtain ⟨p7, p6, p3, p2, p1, p0⟩ := hp n v d i z cc
  obtain ⟨i6, i7, i0, i1, i2, i3, i4, i5⟩ := hi rp j ii ni np npd _ rfl
  simp only [saveCpu, readCpu, cpuInternalByte, i6, i7, Bool.or_self, Bool.false_eq_true, if_false, p7, p6, p3,
    p2, p1, p0, i0, i1, i2, i3, i4, i5, mkWord_bytes]

/-- A record is taken whole, whatever follows (R807, R830). -/
theorem takeRecord_saveRecord {id : Nat} {payload : List Byte} (hi : id < 2 ^ 16)
    (hp : payload.length < 2 ^ 32) (rest : List Byte) :
    takeRecord id (saveRecord id payload ++ rest) = .ok (payload, rest) := by
  have l2 := length_leBytes 2 id
  have l4 := length_leBytes 4 payload.length
  rw [takeRecord, saveRecord, List.append_assoc, List.append_assoc]
  rw [if_neg (by simp only [List.length_append, l2, l4]; omega), List.take_left' l2,
    leValue_leBytes (n := 2) hi, if_neg (by simp)]
  dsimp only
  rw [List.drop_left' l2, List.take_left' l4, leValue_leBytes (n := 4) hp, ← List.append_assoc,
    List.drop_left' (show (leBytes 2 id ++ leBytes 4 payload.length).length = 6 by
      rw [List.length_append, l2, l4]),
    if_neg (by rw [List.length_append]; omega), List.take_left' rfl, List.drop_left' rfl]

end Sys2Proof.Machine
end

