-- ==== Sys2Proof/Laws/Invariant.lean ====
section
/-! SUPPORT. The parts the machine's invariant is kept by: bytes stay below the sizes of the stores, requests
queue in range, chips stay in range, mapping events keep a table sound and disjoint; and every call of the
host, the image loader's included, keeps the invariant. -/

namespace Sys2Proof.Machine

/-! ## Stores -/

/-- A write adds no other offset than its own. -/
theorem Memory.mem_write {x : Nat} {v : Byte} {c : Host.Cell} : ∀ {m : Memory}, c ∈ m.write x v →
    c ∈ m ∨ c.1 = x
  | [], h => by
    rw [Memory.write] at h
    split at h
    · simp at h
    · simp only [List.mem_singleton] at h; exact .inr (by rw [h])
  | (a, w) :: m, h => by
    rw [Memory.write] at h
    split at h
    · split at h
      · exact .inl h
      · rcases List.mem_cons.1 h with rfl | h
        · exact .inr rfl
        · exact .inl h
    · split at h
      · rename_i hx
        split at h
        · exact .inl (List.mem_cons_of_mem _ h)
        · rcases List.mem_cons.1 h with rfl | h
          · exact .inr hx.symm
          · exact .inl (List.mem_cons_of_mem _ h)
      · rcases List.mem_cons.1 h with rfl | h
        · exact .inl (List.mem_cons_self ..)
        · rcases Memory.mem_write h with h | h
          · exact .inl (List.mem_cons_of_mem _ h)
          · exact .inr h

/-- A write to an offset below the size of the store it selects keeps every store's bytes below its size. -/
theorem storesWrite_sized {id off : Nat} (v : Byte) : ∀ {stores : List Store},
    (∀ st ∈ stores, ∀ c ∈ st.bytes, c.1 < st.size) →
    (∀ st, stores.find? (fun st => st.id == id) = some st → off < st.size) →
    ∀ st ∈ storesWrite stores id off v, ∀ c ∈ st.bytes, c.1 < st.size
  | [], h, _ => h
  | st :: rest, h, hoff => by
    rw [storesWrite]
    split
    · rename_i he
      have hs : off < st.size := hoff st (by simp [he])
      intro u hu c hc
      rcases List.mem_cons.1 hu with rfl | hu
      · rcases Memory.mem_write hc with hc | hc
        · exact h st (List.mem_cons_self ..) c hc
        · rw [hc]; exact hs
      · exact h u (List.mem_cons_of_mem _ hu) c hc
    · rename_i he
      intro u hu
      rcases List.mem_cons.1 hu with rfl | hu
      · exact h u (List.mem_cons_self ..)
      · exact storesWrite_sized v (fun w hw => h w (List.mem_cons_of_mem _ hw))
          (fun w hw => hoff w (by simp [he, hw])) u hu

/-- What the configuration fixes of each store. -/
theorem storesWrite_shape (id off : Nat) (v : Byte) : ∀ stores : List Store,
    (storesWrite stores id off v).map (fun st => (st.id, st.kind, st.size))
      = stores.map (fun st => (st.id, st.kind, st.size))
  | [] => rfl
  | st :: rest => by
    rw [storesWrite]
    split
    · rfl
    · rw [List.map_cons, List.map_cons, storesWrite_shape id off v rest]

/-- A write keeps the stores the configured ones. -/
theorem storesWrite_match {c : MachineConfig} {stores : List Store} (id off : Nat) (v : Byte)
    (h : storesMatch c stores = true) : storesMatch c (storesWrite stores id off v) = true := by
  rw [storesMatch, storesWrite_shape]; exact h

/-- The first store of an id is the first configured with it (R58). -/
theorem find_initialStores (id : Nat) : ∀ sps : List StoreSpec,
    (initialStores sps).find? (fun st => st.id == id)
      = (sps.find? (fun sp => sp.id == id)).map
          (fun sp => { id := sp.id, kind := sp.kind, size := sp.size, bytes := [] })
  | [] => rfl
  | sp :: rest => by
    have ins : ∀ (x : Store) (l : List Store), (insertStore x l).find? (fun st => st.id == id)
        = if x.id == id then some x else l.find? (fun st => st.id == id) := by
      intro x l
      induction l with
      | nil => simp only [insertStore, List.find?_cons, List.find?_nil]; split <;> simp_all
      | cons y l ih =>
        rw [insertStore]
        split
        · rw [List.find?_cons]; split <;> simp_all
        · rw [List.find?_cons, ih, List.find?_cons]
          split <;> split <;> simp_all
    rw [initialStores, ins, find_initialStores id rest, List.find?_cons]
    dsimp only
    cases hb : (sp.id == id) <;> simp

/-- The store an address of a sound table selects holds the byte it selects (R56, R58). -/
theorem target_sized {c : MachineConfig} {stores : List Store} {maps : List Mapping} {a : Word}
    {kind : StoreKind} {id off : Nat} (hs : storesMatch c stores = true)
    (hm : ∀ m ∈ maps, mappingOk c m = true) (ht : target maps a = .store kind id off) :
    ∀ st, stores.find? (fun st => st.id == id) = some st → off < st.size := by
  have holds : ∃ kind length, storeHolds c id kind length = true ∧ off < length := by
    unfold target resolve at ht
    generalize hr : maps.find? (fun m => m.covers a) = o at ht
    cases o with
    | none => exact absurd ht (by simp)
    | some m =>
      have hcov : m.covers a = true := by simpa using List.find?_some hr
      have hok := hm m (List.mem_of_find?_eq_some hr)
      simp only [Mapping.covers, Bool.and_eq_true, decide_eq_true_eq] at hcov
      simp only [mappingOk, Bool.and_eq_true, decide_eq_true_eq] at hok
      dsimp only at ht
      generalize m.kind = k at ht hok
      cases k with
      | ioWindow => exact absurd ht (by simp)
      | ram | rom =>
        simp only [Target.store.injEq, Mapping.offset] at ht
        obtain ⟨-, rfl, rfl⟩ := ht
        exact ⟨_, _, hok.2, by omega⟩
  obtain ⟨k, length, hk, hlt⟩ := holds
  intro st hst
  have key : ∀ l : List Store, (l.map (fun st => (st.id, st.kind, st.size))).find? (fun p => p.1 == id)
      = (l.find? (fun st => st.id == id)).map (fun st => (st.id, st.kind, st.size)) := fun l => by
    rw [List.find?_map]; rfl
  have heq := congrArg (fun l => l.find? (fun p => p.1 == id)) (of_decide_eq_true hs)
  simp only [key, hst, find_initialStores, Option.map_some] at heq
  unfold storeHolds at hk
  generalize c.stores.find? (fun sp => sp.id == id) = o at heq hk
  cases o with
  | none => exact absurd heq (by simp)
  | some sp =>
    simp only [Option.map_some, Option.some.injEq, Prod.mk.injEq] at heq
    simp only [Bool.and_eq_true, decide_eq_true_eq] at hk
    omega

/-- A property of the stores that every write to an address of the table keeps is kept by the image loader
(R957). -/
theorem applyImages_keeps {table : List Mapping} {P : List Store → Prop}
    (h : ∀ stores a kind id off v, target table a = .store kind id off → P stores →
      P (storesWrite stores id off v)) :
    ∀ (images : List Image) (stores : List Store), P stores → P (applyImages table stores images)
  | [], _, hp => hp
  | im :: rest, stores, hp => by
    have bytes : ∀ (bs : List Byte) (stores : List Store) (a : Word), P stores →
        P (applyImageBytes table stores a bs) := by
      intro bs
      induction bs with
      | nil => intro _ _ hp; exact hp
      | cons b bs ih =>
        intro stores a hp
        refine ih _ _ ?_
        unfold applyImageByte
        generalize ht : target table a = o
        cases o with
        | store kind id off => exact h stores a kind id off b ht hp
        | chip _ _ => exact hp
        | unmapped => exact hp
    exact applyImages_keeps h rest _ (bytes _ _ _ hp)

/-- What the invariant says of the stores. -/
def StoresOk (c : MachineConfig) (stores : List Store) : Prop :=
  (∀ st ∈ stores, st.bytes.wf = true) ∧ (∀ st ∈ stores, ∀ x ∈ st.bytes, x.1 < st.size)
    ∧ storesMatch c stores = true

/-- A write to an address of a sound table keeps the stores as the invariant has them. -/
theorem StoresOk.write {c : MachineConfig} {stores : List Store} {maps : List Mapping} {a : Word}
    {kind : StoreKind} {id off : Nat} (v : Byte) (hm : ∀ m ∈ maps, mappingOk c m = true)
    (ht : target maps a = .store kind id off) (h : StoresOk c stores) :
    StoresOk c (storesWrite stores id off v) :=
  ⟨storesWrite_wf id off v h.1, storesWrite_sized v h.2.1 (target_sized h.2.2 hm ht),
    storesWrite_match id off v h.2.2⟩

/-- So does the image loader. -/
theorem StoresOk.images {c : MachineConfig} {stores : List Store} {table : List Mapping}
    (hm : ∀ m ∈ table, mappingOk c m = true) (images : List Image) (h : StoresOk c stores) :
    StoresOk c (applyImages table stores images) :=
  applyImages_keeps (P := StoresOk c) (fun _ _ _ _ _ v ht h => StoresOk.write v hm ht h) images stores h

/-! ## Requests -/

/-- A queued stall is one of its chip, with a cycle and a duration of their widths (R78, R731). -/
theorem mem_emittedStalls {i base : Nat} {rs : List (Int × Nat)} {st : Stall}
    (h : st ∈ emittedStalls i base rs) :
    st.fromCycle < 2 ^ 64 ∧ 0 < st.duration ∧ st.duration < 2 ^ 32 ∧ st.chip = i := by
  simp only [emittedStalls, List.mem_filter, List.mem_map, bne_iff_ne] at h
  obtain ⟨⟨r, -, rfl⟩, h⟩ := h
  exact ⟨Nat.mod_lt _ (by decide), Nat.pos_of_ne_zero h, Nat.mod_lt _ (by decide), rfl⟩

/-- A queued bank switch has a cycle of 64 bits and a table of the configured set (R59, R180). -/
theorem mem_emittedSwitches {n base : Nat} {rs : List (Int × Nat)} {b : BankSwitch}
    (h : b ∈ emittedSwitches n base rs) : b.effectiveCycle < 2 ^ 64 ∧ b.table < n := by
  simp only [emittedSwitches, List.mem_filter, List.mem_map, decide_eq_true_eq] at h
  obtain ⟨⟨r, -, rfl⟩, h⟩ := h
  exact ⟨Nat.mod_lt _ (by decide), h⟩

/-! ## Chips -/

/-- Another chip-defined part keeps a chip in range. -/
@[simp] theorem chipInRange_withCore (spec : ChipSpec) (core : ChipCore) (c : Chip) :
    chipInRange spec (chipWithCore core c) = chipInRange spec c := by
  cases c <;> cases spec <;> rfl

/-- So does a recorded write. -/
@[simp] theorem chipInRange_recordLatch (spec : ChipSpec) (offset t : Nat) (v : Byte) (c : Chip) :
    chipInRange spec (recordLatch offset t v c) = chipInRange spec c := by
  cases c <;> cases spec <;> rfl

/-- So does the rendering pipeline after a reset. -/
@[simp] theorem chipInRange_resetRaster (spec : ChipSpec) (i : Nat) (c : Chip) :
    chipInRange spec (resetRaster i c) = chipInRange spec c := by
  cases c <;> cases spec <;> rfl

/-- So does the chip-defined part of a tick. -/
theorem chipInRange_chipTick {spec : ChipSpec} {i : Nat} {granted : Bool} {peeked : List Byte}
    {got : Option Byte} {c : Chip} (h : chipInRange spec c = true) :
    chipInRange spec (chipTick spec i granted peeked got c).1 = true := by
  cases c <;> cases spec <;> exact h

/-- A chip's specification has periods and a ratio that are not 0 (R955). -/
def SpecOk (spec : ChipSpec) : Prop := videoPeriodsOk spec = true ∧ 0 < (specBitcell spec).2

/-- Setting the phase counters keeps a chip in range, since they are set within it (R164). -/
theorem chipInRange_setCounters {spec : ChipSpec} (hs : SpecOk spec) (k : Counters) {c : Chip}
    (h : chipInRange spec c = true) : chipInRange spec (setCounters spec k c) = true := by
  have hv := hs.1
  have hd := hs.2
  cases c <;> cases spec <;> first | exact h | exact Bool.noConfusion h | skip
  · simp only [videoPeriodsOk, Bool.and_eq_true, decide_eq_true_eq] at hv
    simp only [chipInRange, setCounters, specFrameCycles, Bool.and_eq_true, decide_eq_true_eq]
    exact ⟨Nat.mod_lt _ hv.1.1, Nat.mod_lt _ (by decide)⟩
  · exact decide_eq_true (Nat.mod_lt _ hd)

/-- A reset leaves a chip in range (R707, R922). -/
theorem chipInRange_chipReset {spec : ChipSpec} (hs : SpecOk spec) (i : Nat) {c : Chip}
    (h : chipInRange spec c = true) : chipInRange spec (chipReset spec i c) = true := by
  cases c with
  | refTimer t => cases spec <;> first | rfl | exact Bool.noConfusion h
  | video _ _ | io _ _ | disk _ _ | audio _ | other _ =>
    rw [chipReset, chipInRange_withCore]
    · exact chipInRange_setCounters hs _ (by rw [chipInRange_resetRaster]; exact h)
    · simp

/-- Every configured chip has such a specification, and so has the one an index past them stands for. -/
theorem ConfigOk.spec {c : MachineConfig} (h : ConfigOk c) (i : Nat) : SpecOk (specOf c i) := by
  unfold specOf
  generalize hc : c.chips[i]? = o
  cases o with
  | none => exact ⟨rfl, by decide⟩
  | some sp =>
    have hp := h.parameters
    simp only [parametersOk, Bool.and_eq_true, List.all_eq_true] at hp
    exact ⟨hp.1.1.1.1 sp (List.mem_of_getElem? hc), h.cells sp (List.mem_of_getElem? hc)⟩

/-- A reset resets each chip at its index. -/
theorem getElem_resetChips (c : MachineConfig) : ∀ (l : List Chip) (j i : Nat),
    (resetChips c j l)[i]? = (l[i]?).map (chipReset (specOf c (j + i)) (j + i))
  | [], j, i => by simp [resetChips]
  | a :: l, j, 0 => rfl
  | a :: l, j, i + 1 => by
    rw [resetChips, List.getElem?_cons_succ, getElem_resetChips c l, List.getElem?_cons_succ,
      show j + 1 + i = j + (i + 1) by omega]

/-- A reset loses no chip. -/
@[simp] theorem length_resetChips (c : MachineConfig) : ∀ (l : List Chip) (j : Nat),
    (resetChips c j l).length = l.length
  | [], _ => rfl
  | a :: l, j => by rw [resetChips, List.length_cons, length_resetChips c l, List.length_cons]

/-! ## Mapping events -/

/-- A disjoint table, as a relation between its entries. -/
theorem mapsDisjoint_pairwise (maps : List Mapping) : mapsDisjoint maps = true ↔
    maps.Pairwise (fun a b => a.range.intersects b.range = false) := by
  induction maps with
  | nil => simp [mapsDisjoint]
  | cons a l ih => simp [mapsDisjoint, ih]

/-- What the invariant says of a mapping table. -/
def TableOk (c : MachineConfig) (maps : List Mapping) : Prop :=
  (∀ m ∈ maps, mappingOk c m = true) ∧ mapsDisjoint maps = true

/-- A mapping event that may be queued keeps a table sound and disjoint (R185). -/
theorem TableOk.event {c : MachineConfig} {maps : List Mapping} {e : MapEvent} (h : TableOk c maps)
    (he : mapEventOk c e = true) : TableOk c (applyMapEvent maps e) := by
  obtain ⟨h1, h2⟩ := h
  cases e with
  | install m =>
    refine ⟨fun q hq => ?_, ?_⟩
    · rcases List.mem_append.1 hq with hq | hq
      · exact h1 q (List.mem_filter.1 hq).1
      · rw [List.mem_singleton.1 hq]; exact he
    · show mapsDisjoint (installMapping maps m) = true
      rw [mapsDisjoint_pairwise] at h2 ⊢
      refine List.pairwise_append.2 ⟨h2.filter _, List.pairwise_singleton _ _, fun a ha b hb => ?_⟩
      rw [List.mem_singleton.1 hb]
      simpa using (List.mem_filter.1 ha).2
  | remove r =>
    refine ⟨fun q hq => h1 q (List.mem_filter.1 hq).1, ?_⟩
    show mapsDisjoint (removeMapping maps r) = true
    rw [mapsDisjoint_pairwise] at h2 ⊢
    exact h2.filter _

/-- The configured tables are sound and disjoint (R955). -/
theorem ConfigOk.table {c : MachineConfig} (h : ConfigOk c) {table : List Mapping}
    (ht : table ∈ checkedTables c c.powerOnMaps) : TableOk c table :=
  ⟨h.sound table ht, h.disjoint table ht⟩

/-- A configuration that passes the check is one the invariant asks for. -/
theorem ConfigOk.of_checkConfig {c : MachineConfig} (h : checkConfig c c.powerOnMaps = none) :
    ConfigOk c := by
  unfold checkConfig at h
  split at h
  · simp at h
  split at h
  · simp at h
  split at h
  · simp at h
  split at h
  · simp at h
  split at h
  · simp at h
  split at h
  · simp at h
  rename_i h1 h2 h3 _ _ h6
  simp only [Bool.not_eq_true', Bool.not_eq_false, List.all_eq_true] at h1 h2 h3 h6
  refine ⟨h1, h2, h3, ?_⟩
  have cells : ∀ (tables : List (List Mapping)) (l : List ChipSpec) (i : Nat), chipsOk tables i l = true →
      ∀ sp ∈ l, 0 < (specBitcell sp).2 := by
    intro tables l
    induction l with
    | nil => intro _ _ sp hsp; exact absurd hsp (by simp)
    | cons x l ih =>
      intro i hi sp hsp
      simp only [chipsOk, Bool.and_eq_true] at hi
      rcases List.mem_cons.1 hsp with rfl | hsp
      · cases sp <;> first | exact Nat.one_pos | exact of_decide_eq_true hi.1
      · exact ih (i + 1) hi.2 sp hsp
  exact cells _ _ 0 h6

/-! ## The invariant -/

/-- States that agree on what the invariant reads. -/
theorem State.Inv.congr {s t : State} (h : s.Inv) (config : t.config = s.config) (bus : t.bus = s.bus)
    (clock : t.clock = s.clock) (chips : t.chips = s.chips) (stalls : t.sched.stalls = s.sched.stalls) :
    t.Inv := by
  obtain ⟨a1, a2, a3, a4, a5, a6, a7, a8, a9, a10, a11, a12⟩ := h
  exact ⟨by rw [config]; exact a1, by rw [State.canonical, bus]; exact a2, by rw [bus]; exact a3,
    by rw [config, bus]; exact a4, by rw [config, bus]; exact a5, by rw [bus]; exact a6,
    by rw [clock]; exact a7, by rw [config, bus]; exact a8, by rw [config, bus]; exact a9,
    by rw [chips, stalls]; exact a10, by rw [config, chips]; exact a11, by rw [config, chips]; exact a12⟩

/-- What the invariant says of the stores of a state. -/
theorem State.Inv.storesOk {s : State} (h : s.Inv) : StoresOk s.config s.bus.stores :=
  ⟨h.canonical, h.sized, h.stores⟩

/-- What it says of the mapping table. -/
theorem State.Inv.tableOk {s : State} (h : s.Inv) : TableOk s.config s.bus.maps := ⟨h.sound, h.disjoint⟩

/-- Honouring a reset keeps the invariant (R753). -/
theorem honourReset_inv {s : State} (h : s.Inv) : (honourReset s).Inv := by
  have table := h.config.table (table := s.config.powerOnMaps) (List.mem_cons_self ..)
  have stores := StoresOk.images table.1 s.config.imagesReset h.storesOk
  refine ⟨h.config, stores.1, stores.2.1, stores.2.2, table.1, table.2, h.clock, ?_, ?_, ?_, ?_, ?_⟩
  · exact fun _ hb => absurd hb (by simp [honourReset])
  · exact fun _ hb => absurd hb (by simp [honourReset])
  · exact fun _ hb => absurd hb (by simp [honourReset])
  · exact (length_resetChips _ _ _).trans h.count
  · intro i c hc
    have hc : (resetChips s.config 0 s.chips)[i]? = some c := hc
    rw [getElem_resetChips, Nat.zero_add] at hc
    obtain ⟨c0, h0, rfl⟩ := Option.map_eq_some_iff.1 hc
    exact chipInRange_chipReset (h.config.spec i) i (h.chips i c0 h0)

/-- `pause()` keeps the invariant (R752). -/
theorem hostPause_inv {s : State} (h : s.Inv) : (hostPause s).Inv := by
  unfold hostPause
  split
  · exact h.congr rfl rfl rfl rfl rfl
  · exact h

/-- `resume()` keeps the invariant (R752). -/
theorem hostResume_inv {s t : State} (h : s.Inv) (ht : hostResume s = .ok t) : t.Inv := by
  unfold hostResume at ht
  split at ht
  · split at ht
    · exact absurd ht (by simp)
    · rw [← Except.ok.inj ht]; exact h.congr rfl rfl rfl rfl rfl
  · rw [← Except.ok.inj ht]; exact h.congr rfl rfl rfl rfl rfl
  · rw [← Except.ok.inj ht]; exact h.congr rfl rfl rfl rfl rfl
  · rw [← Except.ok.inj ht]; exact h

/-- `reset()` keeps the invariant (R752). -/
theorem hostReset_inv {s : State} (h : s.Inv) : (hostReset s).Inv := by
  unfold hostReset
  split
  · exact h.congr rfl rfl rfl rfl rfl
  · exact honourReset_inv h
  · exact honourReset_inv h
  · exact h

/-- `power_off()` keeps the invariant (R752, R760). -/
theorem hostPowerOff_inv {s : State} (h : s.Inv) : (hostPowerOff s).Inv := by
  unfold hostPowerOff
  split
  · exact h
  · exact h.congr rfl rfl rfl rfl rfl
  · exact h.congr rfl rfl rfl rfl rfl

/-- An event of the image loader keeps the invariant (R184). -/
theorem deliverMapEvent_inv {s : State} (e : MapEvent) (h : s.Inv) : (deliverMapEvent e s).Inv := by
  unfold deliverMapEvent
  split
  · rename_i he
    refine ⟨h.config, h.canonical, h.sized, h.stores, h.sound, h.disjoint, h.clock, h.switches, ?_,
      h.stalls, h.count, h.chips⟩
    intro x hx
    rcases List.mem_append.1 hx with hx | hx
    · exact h.events x hx
    · rw [List.mem_singleton.1 hx]; exact he.2.2
  · exact h

/-! ## A loaded snapshot -/

/-- An integer of `n` bytes fits them. -/
theorem readUint_lt {n : Nat} {bs rest : List Byte} {v : Nat} (h : readUint n bs = some (v, rest)) :
    v < 2 ^ (8 * n) := by
  have value : ∀ l : List Byte, leValue l < 2 ^ (8 * l.length) := by
    intro l
    induction l with
    | nil => simp [leValue]
    | cons b l ih =>
      have := b.isLt
      rw [leValue, List.length_cons, Nat.mul_add, Nat.pow_add]
      omega
  unfold readUint at h
  split at h
  · exact absurd h (by simp)
  · rename_i hl
    rw [← (Prod.mk.inj (Option.some.inj h)).1]
    have := value (bs.take n)
    rwa [List.length_take, Nat.min_eq_left (by omega)] at this

/-- What every item has, the items of a list have. -/
theorem readItems_all {α : Type} {item : List Byte → Option (α × List Byte)} {P : α → Prop}
    (h : ∀ bs x rest, item bs = some (x, rest) → P x) : ∀ (n : Nat) {bs rest : List Byte} {xs : List α},
    readItems item n bs = some (xs, rest) → ∀ x ∈ xs, P x
  | 0, bs, rest, xs, hx => by
    rw [← (Prod.mk.inj (Option.some.inj hx)).1]; exact fun _ hx => absurd hx (by simp)
  | n + 1, bs, rest, xs, hx => by
    rw [readItems] at hx
    obtain ⟨⟨y, bs'⟩, h1, hx⟩ := Option.bind_eq_some_iff.1 hx
    obtain ⟨⟨ys, bs''⟩, h2, hx⟩ := Option.bind_eq_some_iff.1 hx
    rw [← (Prod.mk.inj (Option.some.inj hx)).1]
    intro x hx
    rcases List.mem_cons.1 hx with rfl | hx
    · exact h _ _ _ h1
    · exact readItems_all h n h2 x hx

/-- The same of a counted list. -/
theorem readList_all {α : Type} {item : List Byte → Option (α × List Byte)} {P : α → Prop}
    (h : ∀ bs x rest, item bs = some (x, rest) → P x) {bs rest : List Byte} {xs : List α}
    (hx : readList item bs = some (xs, rest)) : ∀ x ∈ xs, P x := by
  obtain ⟨⟨n, bs'⟩, _, hx⟩ := Option.bind_eq_some_iff.1 hx
  exact readItems_all h n hx

/-- A parse that consumed its payload is a parse. -/
theorem exactly_some {α : Type} {o : Option (α × List Byte)} {x : α} (h : exactly o = some x) :
    o = some (x, []) := by
  unfold exactly at h
  split at h
  · rw [Option.some.inj h]
  · exact absurd h (by simp)

/-- A byte array's memory lists offsets of the array. -/
theorem Memory.mem_ofBytesFrom {c : Host.Cell} : ∀ {off : Nat} {bs : List Byte},
    c ∈ Memory.ofBytesFrom off bs → c.1 < off + bs.length
  | _, [], h => absurd h (by simp [Memory.ofBytesFrom])
  | off, b :: bs, h => by
    rw [List.length_cons]
    rw [Memory.ofBytesFrom] at h
    split at h
    · have := Memory.mem_ofBytesFrom h; omega
    · rcases List.mem_cons.1 h with rfl | h
      · dsimp only; omega
      · have := Memory.mem_ofBytesFrom h; omega

/-- A loaded store is canonical and its bytes lie below its size (R812). -/
theorem readStore_ok {bs rest : List Byte} {st : Store} (h : readStore bs = some (st, rest)) :
    st.bytes.wf = true ∧ ∀ c ∈ st.bytes, c.1 < st.size := by
  unfold readStore at h
  obtain ⟨⟨id, bs1⟩, _, h⟩ := Option.bind_eq_some_iff.1 h
  obtain ⟨⟨kind, bs2⟩, _, h⟩ := Option.bind_eq_some_iff.1 h
  obtain ⟨⟨size, bs3⟩, _, h⟩ := Option.bind_eq_some_iff.1 h
  obtain ⟨kind, _, h⟩ := Option.bind_eq_some_iff.1 h
  split at h
  · exact absurd h (by simp)
  · rw [← (Prod.mk.inj (Option.some.inj h)).1]
    refine ⟨Memory.wf_ofBytesFrom 0 _, fun c hc => ?_⟩
    have := Memory.mem_ofBytesFrom hc
    rw [List.length_take] at this
    dsimp only
    omega

/-- What the parse of a Bus payload gives of the invariant by itself (R812, R813). -/
theorem readBus_ok {bs : List Byte} {b : Bus} (h : readBus bs = some b) :
    (∀ st ∈ b.stores, st.bytes.wf = true ∧ ∀ c ∈ st.bytes, c.1 < st.size)
      ∧ ∀ w ∈ b.pendingSwitches, w.effectiveCycle < 2 ^ 64 := by
  have h := exactly_some h
  obtain ⟨⟨maps, bs1⟩, _, h⟩ := Option.bind_eq_some_iff.1 h
  obtain ⟨⟨stores, bs2⟩, h2, h⟩ := Option.bind_eq_some_iff.1 h
  obtain ⟨⟨switches, bs3⟩, h3, h⟩ := Option.bind_eq_some_iff.1 h
  obtain ⟨⟨events, bs4⟩, _, h⟩ := Option.bind_eq_some_iff.1 h
  rw [← (Prod.mk.inj (Option.some.inj h)).1]
  refine ⟨readList_all (fun _ _ _ => readStore_ok) h2, readList_all (fun bs x rest hx => ?_) h3⟩
  unfold readSwitch at hx
  obtain ⟨⟨effective, bs5⟩, h5, hx⟩ := Option.bind_eq_some_iff.1 hx
  obtain ⟨⟨table, bs6⟩, _, hx⟩ := Option.bind_eq_some_iff.1 hx
  rw [← (Prod.mk.inj (Option.some.inj hx)).1]
  exact readUint_lt h5

/-- What the parse of a Scheduler payload gives of it (R824). -/
theorem readSched_ok {bs : List Byte} {r : (Bool × Bool) × List Stall} (h : readSched bs = some r) :
    ∀ st ∈ r.2, st.fromCycle < 2 ^ 64 ∧ st.duration < 2 ^ 32 := by
  have h := exactly_some h
  obtain ⟨⟨irq, bs1⟩, _, h⟩ := Option.bind_eq_some_iff.1 h
  obtain ⟨⟨nmi, bs2⟩, _, h⟩ := Option.bind_eq_some_iff.1 h
  obtain ⟨⟨stalls, bs3⟩, h3, h⟩ := Option.bind_eq_some_iff.1 h
  rw [← (Prod.mk.inj (Option.some.inj h)).1]
  refine readList_all (fun bs x rest hx => ?_) h3
  unfold readStall at hx
  obtain ⟨⟨start, bs4⟩, h4, hx⟩ := Option.bind_eq_some_iff.1 hx
  obtain ⟨⟨duration, bs5⟩, h5, hx⟩ := Option.bind_eq_some_iff.1 hx
  obtain ⟨⟨chip, bs6⟩, _, hx⟩ := Option.bind_eq_some_iff.1 hx
  rw [← (Prod.mk.inj (Option.some.inj hx)).1]
  exact ⟨readUint_lt h4, readUint_lt h5⟩

/-- A load that succeeds has taken the record it expected and gone on with its payload (R830). -/
theorem past_record {loaded : Type} {id : Nat} {bytes : List Byte} {result : loaded}
    {goOn : List Byte × List Byte → Except SnapshotError loaded}
    (h : (takeRecord id bytes >>= goOn) = .ok result) :
    ∃ payload left, goOn (payload, left) = .ok result := by
  generalize takeRecord id bytes = taken at h
  rcases taken with _ | ⟨payload, left⟩
  · nomatch h
  · exact ⟨payload, left, h⟩

/-- A load that succeeds has found no payload malformed and gone on with what it parsed (R830, R833). -/
theorem past_payload {part loaded : Type} {parsed : Option part} {result : loaded}
    {goOn : part → Except SnapshotError loaded} (h : (orMalformed parsed >>= goOn) = .ok result) :
    ∃ value, parsed = some value ∧ goOn value = .ok result := by
  rcases parsed with _ | value
  · nomatch h
  · exact ⟨value, rfl, h⟩

/-- The chips' records keep the number of chips, and every chip in range (R820, R833). -/
theorem readChips_ok (c : MachineConfig) : ∀ (order : List Nat) {chips chips' : List Chip}
    {bs rest : List Byte}, (∀ (i : Nat) x, chips[i]? = some x → chipInRange (specOf c i) x = true) →
    readChips c order chips bs = .ok (chips', rest) →
    chips'.length = chips.length
      ∧ ∀ (i : Nat) x, chips'[i]? = some x → chipInRange (specOf c i) x = true
  | [], chips, chips', bs, rest, h, hr => by
    rw [← (Prod.mk.inj (Except.ok.inj hr)).1]; exact ⟨rfl, h⟩
  | i :: order, chips, chips', bs, rest, h, hr => by
    rw [readChips] at hr
    obtain ⟨payload, bs1, hr⟩ := past_record hr
    obtain ⟨chip, h2, hr⟩ := past_payload hr
    obtain ⟨h3, h4⟩ := readChips_ok c order (fun j x hx => by
      rw [List.getElem?_set] at hx
      split at hx
      · rename_i hij
        split at hx
        · rw [← hij, ← Option.some.inj hx]; exact (readChip_iff.1 h2).1
        · exact absurd hx (by simp)
      · exact h j x hx) hr
    exact ⟨by rw [h3, List.length_set], h4⟩

/-- A loaded machine has the invariant, whatever bytes it was loaded from (R833). -/
theorem load_inv {s t : State} {bytes : List Byte} (h : s.Inv) (ht : load s bytes = .ok t) : t.Inv := by
  have hp : parseSnapshot s bytes = .ok t := by
    unfold load at ht
    split at ht
    · exact absurd ht (by simp)
    · exact absurd ht (by simp)
    · exact ht
  unfold parseSnapshot at hp
  split at hp
  · exact absurd hp (by simp)
  split at hp
  · exact absurd hp (by simp)
  obtain ⟨_, _, hp⟩ := past_record hp
  obtain ⟨clock, hclock, hp⟩ := past_payload hp
  obtain ⟨_, _, hp⟩ := past_record hp
  obtain ⟨bus, hbus, hp⟩ := past_payload hp
  obtain ⟨_, bs, hp⟩ := past_record hp
  obtain ⟨cpu, _, hp⟩ := past_payload hp
  dsimp only at hp
  generalize hchips : readChips s.config s.config.chipOrder s.chips bs = read at hp
  rcases read with _ | ⟨chips, left⟩
  · nomatch hp
  obtain ⟨_, _, hp⟩ := past_record hp
  obtain ⟨sched, hsched, hp⟩ := past_payload hp
  split at hp
  · rename_i hok
    obtain ⟨stores, switches⟩ := readBus_ok hbus
    have stalls := readSched_ok hsched
    obtain ⟨count, range⟩ := readChips_ok s.config _ h.chips hchips
    simp only [candidateOk, Bool.and_eq_true, List.all_eq_true, decide_eq_true_eq] at hok
    obtain ⟨-, ⟨⟨⟨⟨sound, disjoint⟩, shape⟩, tables⟩, events⟩, owners⟩ := hok
    rw [← Except.ok.inj hp]
    exact ⟨h.config, fun st hst => (stores st hst).1, fun st hst => (stores st hst).2, shape, sound,
      disjoint, readUint_lt (exactly_some hclock),
      fun b hb => ⟨switches b hb, tables b hb⟩, events,
      fun st hst => ⟨(stalls st hst).1, (owners st hst).2, (stalls st hst).2, by
        show st.chip < chips.length
        rw [count, h.count]; exact (owners st hst).1⟩,
      count.trans h.count, range⟩
  · exact absurd hp (by simp)

end Sys2Proof.Machine
end

