-- ==== Sys2Proof/Laws/PerInstr.lean ====
section
/-! SUPPORT. Facts about every instruction as syntax, one lemma per constructor. -/

namespace Sys2Proof.Laws.FormAgrees

/-- The row of the opcode map at the instruction's opcode is its own (same mnemonic, same mode), the mode
is one the prose gives that mnemonic, and the encoding has the mode's length (R251, R263, R268). -/
def Statement (i : Instr) : Prop :=
  (rowOf i.opcode).mnemonic = i.mnemonic ∧ (rowOf i.opcode).mode = i.mode ∧ i.wellFormed = true
    ∧ (encode i).length = i.mode.length

theorem brk : Statement (.brk) :=
  ⟨show (rowOf 0x00#8).mnemonic = .brk from rfl, show (rowOf 0x00#8).mode = .imp from rfl, rfl, rfl⟩
theorem oraIndx (b1 : Byte) : Statement (.oraIndx b1) :=
  ⟨show (rowOf 0x01#8).mnemonic = .ora from rfl, show (rowOf 0x01#8).mode = .indx from rfl, rfl, rfl⟩
theorem jam02 : Statement (.jam02) :=
  ⟨show (rowOf 0x02#8).mnemonic = .jam from rfl, show (rowOf 0x02#8).mode = .imp from rfl, rfl, rfl⟩
theorem sloIndx (b1 : Byte) : Statement (.sloIndx b1) :=
  ⟨show (rowOf 0x03#8).mnemonic = .slo from rfl, show (rowOf 0x03#8).mode = .indx from rfl, rfl, rfl⟩
theorem nopZp04 (b1 : Byte) : Statement (.nopZp04 b1) :=
  ⟨show (rowOf 0x04#8).mnemonic = .nop from rfl, show (rowOf 0x04#8).mode = .zp from rfl, rfl, rfl⟩
theorem oraZp (b1 : Byte) : Statement (.oraZp b1) :=
  ⟨show (rowOf 0x05#8).mnemonic = .ora from rfl, show (rowOf 0x05#8).mode = .zp from rfl, rfl, rfl⟩
theorem aslZp (b1 : Byte) : Statement (.aslZp b1) :=
  ⟨show (rowOf 0x06#8).mnemonic = .asl from rfl, show (rowOf 0x06#8).mode = .zp from rfl, rfl, rfl⟩
theorem sloZp (b1 : Byte) : Statement (.sloZp b1) :=
  ⟨show (rowOf 0x07#8).mnemonic = .slo from rfl, show (rowOf 0x07#8).mode = .zp from rfl, rfl, rfl⟩
theorem php : Statement (.php) :=
  ⟨show (rowOf 0x08#8).mnemonic = .php from rfl, show (rowOf 0x08#8).mode = .imp from rfl, rfl, rfl⟩
theorem oraImm (b1 : Byte) : Statement (.oraImm b1) :=
  ⟨show (rowOf 0x09#8).mnemonic = .ora from rfl, show (rowOf 0x09#8).mode = .imm from rfl, rfl, rfl⟩
theorem aslAcc : Statement (.aslAcc) :=
  ⟨show (rowOf 0x0A#8).mnemonic = .asl from rfl, show (rowOf 0x0A#8).mode = .acc from rfl, rfl, rfl⟩
theorem ancImm0B (b1 : Byte) : Statement (.ancImm0B b1) :=
  ⟨show (rowOf 0x0B#8).mnemonic = .anc from rfl, show (rowOf 0x0B#8).mode = .imm from rfl, rfl, rfl⟩
theorem nopAbs (w : Word) : Statement (.nopAbs w) :=
  ⟨show (rowOf 0x0C#8).mnemonic = .nop from rfl, show (rowOf 0x0C#8).mode = .abs from rfl, rfl, rfl⟩
theorem oraAbs (w : Word) : Statement (.oraAbs w) :=
  ⟨show (rowOf 0x0D#8).mnemonic = .ora from rfl, show (rowOf 0x0D#8).mode = .abs from rfl, rfl, rfl⟩
theorem aslAbs (w : Word) : Statement (.aslAbs w) :=
  ⟨show (rowOf 0x0E#8).mnemonic = .asl from rfl, show (rowOf 0x0E#8).mode = .abs from rfl, rfl, rfl⟩
theorem sloAbs (w : Word) : Statement (.sloAbs w) :=
  ⟨show (rowOf 0x0F#8).mnemonic = .slo from rfl, show (rowOf 0x0F#8).mode = .abs from rfl, rfl, rfl⟩
theorem bplRel (off : Byte) : Statement (.bplRel off) :=
  ⟨show (rowOf 0x10#8).mnemonic = .bpl from rfl, show (rowOf 0x10#8).mode = .rel from rfl, rfl, rfl⟩
theorem oraIndy (b1 : Byte) : Statement (.oraIndy b1) :=
  ⟨show (rowOf 0x11#8).mnemonic = .ora from rfl, show (rowOf 0x11#8).mode = .indy from rfl, rfl, rfl⟩
theorem jam12 : Statement (.jam12) :=
  ⟨show (rowOf 0x12#8).mnemonic = .jam from rfl, show (rowOf 0x12#8).mode = .imp from rfl, rfl, rfl⟩
theorem sloIndy (b1 : Byte) : Statement (.sloIndy b1) :=
  ⟨show (rowOf 0x13#8).mnemonic = .slo from rfl, show (rowOf 0x13#8).mode = .indy from rfl, rfl, rfl⟩
theorem nopZpx14 (b1 : Byte) : Statement (.nopZpx14 b1) :=
  ⟨show (rowOf 0x14#8).mnemonic = .nop from rfl, show (rowOf 0x14#8).mode = .zpx from rfl, rfl, rfl⟩
theorem oraZpx (b1 : Byte) : Statement (.oraZpx b1) :=
  ⟨show (rowOf 0x15#8).mnemonic = .ora from rfl, show (rowOf 0x15#8).mode = .zpx from rfl, rfl, rfl⟩
theorem aslZpx (b1 : Byte) : Statement (.aslZpx b1) :=
  ⟨show (rowOf 0x16#8).mnemonic = .asl from rfl, show (rowOf 0x16#8).mode = .zpx from rfl, rfl, rfl⟩
theorem sloZpx (b1 : Byte) : Statement (.sloZpx b1) :=
  ⟨show (rowOf 0x17#8).mnemonic = .slo from rfl, show (rowOf 0x17#8).mode = .zpx from rfl, rfl, rfl⟩
theorem clc : Statement (.clc) :=
  ⟨show (rowOf 0x18#8).mnemonic = .clc from rfl, show (rowOf 0x18#8).mode = .imp from rfl, rfl, rfl⟩
theorem oraAbsy (w : Word) : Statement (.oraAbsy w) :=
  ⟨show (rowOf 0x19#8).mnemonic = .ora from rfl, show (rowOf 0x19#8).mode = .absy from rfl, rfl, rfl⟩
theorem nop1A : Statement (.nop1A) :=
  ⟨show (rowOf 0x1A#8).mnemonic = .nop from rfl, show (rowOf 0x1A#8).mode = .imp from rfl, rfl, rfl⟩
theorem sloAbsy (w : Word) : Statement (.sloAbsy w) :=
  ⟨show (rowOf 0x1B#8).mnemonic = .slo from rfl, show (rowOf 0x1B#8).mode = .absy from rfl, rfl, rfl⟩
theorem nopAbsx1C (w : Word) : Statement (.nopAbsx1C w) :=
  ⟨show (rowOf 0x1C#8).mnemonic = .nop from rfl, show (rowOf 0x1C#8).mode = .absx from rfl, rfl, rfl⟩
theorem oraAbsx (w : Word) : Statement (.oraAbsx w) :=
  ⟨show (rowOf 0x1D#8).mnemonic = .ora from rfl, show (rowOf 0x1D#8).mode = .absx from rfl, rfl, rfl⟩
theorem aslAbsx (w : Word) : Statement (.aslAbsx w) :=
  ⟨show (rowOf 0x1E#8).mnemonic = .asl from rfl, show (rowOf 0x1E#8).mode = .absx from rfl, rfl, rfl⟩
theorem sloAbsx (w : Word) : Statement (.sloAbsx w) :=
  ⟨show (rowOf 0x1F#8).mnemonic = .slo from rfl, show (rowOf 0x1F#8).mode = .absx from rfl, rfl, rfl⟩
theorem jsrAbs (w : Word) : Statement (.jsrAbs w) :=
  ⟨show (rowOf 0x20#8).mnemonic = .jsr from rfl, show (rowOf 0x20#8).mode = .abs from rfl, rfl, rfl⟩
theorem andIndx (b1 : Byte) : Statement (.andIndx b1) :=
  ⟨show (rowOf 0x21#8).mnemonic = .and from rfl, show (rowOf 0x21#8).mode = .indx from rfl, rfl, rfl⟩
theorem jam22 : Statement (.jam22) :=
  ⟨show (rowOf 0x22#8).mnemonic = .jam from rfl, show (rowOf 0x22#8).mode = .imp from rfl, rfl, rfl⟩
theorem rlaIndx (b1 : Byte) : Statement (.rlaIndx b1) :=
  ⟨show (rowOf 0x23#8).mnemonic = .rla from rfl, show (rowOf 0x23#8).mode = .indx from rfl, rfl, rfl⟩
theorem bitZp (b1 : Byte) : Statement (.bitZp b1) :=
  ⟨show (rowOf 0x24#8).mnemonic = .bit from rfl, show (rowOf 0x24#8).mode = .zp from rfl, rfl, rfl⟩
theorem andZp (b1 : Byte) : Statement (.andZp b1) :=
  ⟨show (rowOf 0x25#8).mnemonic = .and from rfl, show (rowOf 0x25#8).mode = .zp from rfl, rfl, rfl⟩
theorem rolZp (b1 : Byte) : Statement (.rolZp b1) :=
  ⟨show (rowOf 0x26#8).mnemonic = .rol from rfl, show (rowOf 0x26#8).mode = .zp from rfl, rfl, rfl⟩
theorem rlaZp (b1 : Byte) : Statement (.rlaZp b1) :=
  ⟨show (rowOf 0x27#8).mnemonic = .rla from rfl, show (rowOf 0x27#8).mode = .zp from rfl, rfl, rfl⟩
theorem plp : Statement (.plp) :=
  ⟨show (rowOf 0x28#8).mnemonic = .plp from rfl, show (rowOf 0x28#8).mode = .imp from rfl, rfl, rfl⟩
theorem andImm (b1 : Byte) : Statement (.andImm b1) :=
  ⟨show (rowOf 0x29#8).mnemonic = .and from rfl, show (rowOf 0x29#8).mode = .imm from rfl, rfl, rfl⟩
theorem rolAcc : Statement (.rolAcc) :=
  ⟨show (rowOf 0x2A#8).mnemonic = .rol from rfl, show (rowOf 0x2A#8).mode = .acc from rfl, rfl, rfl⟩
theorem ancImm2B (b1 : Byte) : Statement (.ancImm2B b1) :=
  ⟨show (rowOf 0x2B#8).mnemonic = .anc from rfl, show (rowOf 0x2B#8).mode = .imm from rfl, rfl, rfl⟩
theorem bitAbs (w : Word) : Statement (.bitAbs w) :=
  ⟨show (rowOf 0x2C#8).mnemonic = .bit from rfl, show (rowOf 0x2C#8).mode = .abs from rfl, rfl, rfl⟩
theorem andAbs (w : Word) : Statement (.andAbs w) :=
  ⟨show (rowOf 0x2D#8).mnemonic = .and from rfl, show (rowOf 0x2D#8).mode = .abs from rfl, rfl, rfl⟩
theorem rolAbs (w : Word) : Statement (.rolAbs w) :=
  ⟨show (rowOf 0x2E#8).mnemonic = .rol from rfl, show (rowOf 0x2E#8).mode = .abs from rfl, rfl, rfl⟩
theorem rlaAbs (w : Word) : Statement (.rlaAbs w) :=
  ⟨show (rowOf 0x2F#8).mnemonic = .rla from rfl, show (rowOf 0x2F#8).mode = .abs from rfl, rfl, rfl⟩
theorem bmiRel (off : Byte) : Statement (.bmiRel off) :=
  ⟨show (rowOf 0x30#8).mnemonic = .bmi from rfl, show (rowOf 0x30#8).mode = .rel from rfl, rfl, rfl⟩
theorem andIndy (b1 : Byte) : Statement (.andIndy b1) :=
  ⟨show (rowOf 0x31#8).mnemonic = .and from rfl, show (rowOf 0x31#8).mode = .indy from rfl, rfl, rfl⟩
theorem jam32 : Statement (.jam32) :=
  ⟨show (rowOf 0x32#8).mnemonic = .jam from rfl, show (rowOf 0x32#8).mode = .imp from rfl, rfl, rfl⟩
theorem rlaIndy (b1 : Byte) : Statement (.rlaIndy b1) :=
  ⟨show (rowOf 0x33#8).mnemonic = .rla from rfl, show (rowOf 0x33#8).mode = .indy from rfl, rfl, rfl⟩
theorem nopZpx34 (b1 : Byte) : Statement (.nopZpx34 b1) :=
  ⟨show (rowOf 0x34#8).mnemonic = .nop from rfl, show (rowOf 0x34#8).mode = .zpx from rfl, rfl, rfl⟩
theorem andZpx (b1 : Byte) : Statement (.andZpx b1) :=
  ⟨show (rowOf 0x35#8).mnemonic = .and from rfl, show (rowOf 0x35#8).mode = .zpx from rfl, rfl, rfl⟩
theorem rolZpx (b1 : Byte) : Statement (.rolZpx b1) :=
  ⟨show (rowOf 0x36#8).mnemonic = .rol from rfl, show (rowOf 0x36#8).mode = .zpx from rfl, rfl, rfl⟩
theorem rlaZpx (b1 : Byte) : Statement (.rlaZpx b1) :=
  ⟨show (rowOf 0x37#8).mnemonic = .rla from rfl, show (rowOf 0x37#8).mode = .zpx from rfl, rfl, rfl⟩
theorem sec : Statement (.sec) :=
  ⟨show (rowOf 0x38#8).mnemonic = .sec from rfl, show (rowOf 0x38#8).mode = .imp from rfl, rfl, rfl⟩
theorem andAbsy (w : Word) : Statement (.andAbsy w) :=
  ⟨show (rowOf 0x39#8).mnemonic = .and from rfl, show (rowOf 0x39#8).mode = .absy from rfl, rfl, rfl⟩
theorem nop3A : Statement (.nop3A) :=
  ⟨show (rowOf 0x3A#8).mnemonic = .nop from rfl, show (rowOf 0x3A#8).mode = .imp from rfl, rfl, rfl⟩
theorem rlaAbsy (w : Word) : Statement (.rlaAbsy w) :=
  ⟨show (rowOf 0x3B#8).mnemonic = .rla from rfl, show (rowOf 0x3B#8).mode = .absy from rfl, rfl, rfl⟩
theorem nopAbsx3C (w : Word) : Statement (.nopAbsx3C w) :=
  ⟨show (rowOf 0x3C#8).mnemonic = .nop from rfl, show (rowOf 0x3C#8).mode = .absx from rfl, rfl, rfl⟩
theorem andAbsx (w : Word) : Statement (.andAbsx w) :=
  ⟨show (rowOf 0x3D#8).mnemonic = .and from rfl, show (rowOf 0x3D#8).mode = .absx from rfl, rfl, rfl⟩
theorem rolAbsx (w : Word) : Statement (.rolAbsx w) :=
  ⟨show (rowOf 0x3E#8).mnemonic = .rol from rfl, show (rowOf 0x3E#8).mode = .absx from rfl, rfl, rfl⟩
theorem rlaAbsx (w : Word) : Statement (.rlaAbsx w) :=
  ⟨show (rowOf 0x3F#8).mnemonic = .rla from rfl, show (rowOf 0x3F#8).mode = .absx from rfl, rfl, rfl⟩
theorem rti : Statement (.rti) :=
  ⟨show (rowOf 0x40#8).mnemonic = .rti from rfl, show (rowOf 0x40#8).mode = .imp from rfl, rfl, rfl⟩
theorem eorIndx (b1 : Byte) : Statement (.eorIndx b1) :=
  ⟨show (rowOf 0x41#8).mnemonic = .eor from rfl, show (rowOf 0x41#8).mode = .indx from rfl, rfl, rfl⟩
theorem jam42 : Statement (.jam42) :=
  ⟨show (rowOf 0x42#8).mnemonic = .jam from rfl, show (rowOf 0x42#8).mode = .imp from rfl, rfl, rfl⟩
theorem sreIndx (b1 : Byte) : Statement (.sreIndx b1) :=
  ⟨show (rowOf 0x43#8).mnemonic = .sre from rfl, show (rowOf 0x43#8).mode = .indx from rfl, rfl, rfl⟩
theorem nopZp44 (b1 : Byte) : Statement (.nopZp44 b1) :=
  ⟨show (rowOf 0x44#8).mnemonic = .nop from rfl, show (rowOf 0x44#8).mode = .zp from rfl, rfl, rfl⟩
theorem eorZp (b1 : Byte) : Statement (.eorZp b1) :=
  ⟨show (rowOf 0x45#8).mnemonic = .eor from rfl, show (rowOf 0x45#8).mode = .zp from rfl, rfl, rfl⟩
theorem lsrZp (b1 : Byte) : Statement (.lsrZp b1) :=
  ⟨show (rowOf 0x46#8).mnemonic = .lsr from rfl, show (rowOf 0x46#8).mode = .zp from rfl, rfl, rfl⟩
theorem sreZp (b1 : Byte) : Statement (.sreZp b1) :=
  ⟨show (rowOf 0x47#8).mnemonic = .sre from rfl, show (rowOf 0x47#8).mode = .zp from rfl, rfl, rfl⟩
theorem pha : Statement (.pha) :=
  ⟨show (rowOf 0x48#8).mnemonic = .pha from rfl, show (rowOf 0x48#8).mode = .imp from rfl, rfl, rfl⟩
theorem eorImm (b1 : Byte) : Statement (.eorImm b1) :=
  ⟨show (rowOf 0x49#8).mnemonic = .eor from rfl, show (rowOf 0x49#8).mode = .imm from rfl, rfl, rfl⟩
theorem lsrAcc : Statement (.lsrAcc) :=
  ⟨show (rowOf 0x4A#8).mnemonic = .lsr from rfl, show (rowOf 0x4A#8).mode = .acc from rfl, rfl, rfl⟩
theorem alrImm (b1 : Byte) : Statement (.alrImm b1) :=
  ⟨show (rowOf 0x4B#8).mnemonic = .alr from rfl, show (rowOf 0x4B#8).mode = .imm from rfl, rfl, rfl⟩
theorem jmpAbs (w : Word) : Statement (.jmpAbs w) :=
  ⟨show (rowOf 0x4C#8).mnemonic = .jmp from rfl, show (rowOf 0x4C#8).mode = .abs from rfl, rfl, rfl⟩
theorem eorAbs (w : Word) : Statement (.eorAbs w) :=
  ⟨show (rowOf 0x4D#8).mnemonic = .eor from rfl, show (rowOf 0x4D#8).mode = .abs from rfl, rfl, rfl⟩
theorem lsrAbs (w : Word) : Statement (.lsrAbs w) :=
  ⟨show (rowOf 0x4E#8).mnemonic = .lsr from rfl, show (rowOf 0x4E#8).mode = .abs from rfl, rfl, rfl⟩
theorem sreAbs (w : Word) : Statement (.sreAbs w) :=
  ⟨show (rowOf 0x4F#8).mnemonic = .sre from rfl, show (rowOf 0x4F#8).mode = .abs from rfl, rfl, rfl⟩
theorem bvcRel (off : Byte) : Statement (.bvcRel off) :=
  ⟨show (rowOf 0x50#8).mnemonic = .bvc from rfl, show (rowOf 0x50#8).mode = .rel from rfl, rfl, rfl⟩
theorem eorIndy (b1 : Byte) : Statement (.eorIndy b1) :=
  ⟨show (rowOf 0x51#8).mnemonic = .eor from rfl, show (rowOf 0x51#8).mode = .indy from rfl, rfl, rfl⟩
theorem jam52 : Statement (.jam52) :=
  ⟨show (rowOf 0x52#8).mnemonic = .jam from rfl, show (rowOf 0x52#8).mode = .imp from rfl, rfl, rfl⟩
theorem sreIndy (b1 : Byte) : Statement (.sreIndy b1) :=
  ⟨show (rowOf 0x53#8).mnemonic = .sre from rfl, show (rowOf 0x53#8).mode = .indy from rfl, rfl, rfl⟩
theorem nopZpx54 (b1 : Byte) : Statement (.nopZpx54 b1) :=
  ⟨show (rowOf 0x54#8).mnemonic = .nop from rfl, show (rowOf 0x54#8).mode = .zpx from rfl, rfl, rfl⟩
theorem eorZpx (b1 : Byte) : Statement (.eorZpx b1) :=
  ⟨show (rowOf 0x55#8).mnemonic = .eor from rfl, show (rowOf 0x55#8).mode = .zpx from rfl, rfl, rfl⟩
theorem lsrZpx (b1 : Byte) : Statement (.lsrZpx b1) :=
  ⟨show (rowOf 0x56#8).mnemonic = .lsr from rfl, show (rowOf 0x56#8).mode = .zpx from rfl, rfl, rfl⟩
theorem sreZpx (b1 : Byte) : Statement (.sreZpx b1) :=
  ⟨show (rowOf 0x57#8).mnemonic = .sre from rfl, show (rowOf 0x57#8).mode = .zpx from rfl, rfl, rfl⟩
theorem cli : Statement (.cli) :=
  ⟨show (rowOf 0x58#8).mnemonic = .cli from rfl, show (rowOf 0x58#8).mode = .imp from rfl, rfl, rfl⟩
theorem eorAbsy (w : Word) : Statement (.eorAbsy w) :=
  ⟨show (rowOf 0x59#8).mnemonic = .eor from rfl, show (rowOf 0x59#8).mode = .absy from rfl, rfl, rfl⟩
theorem nop5A : Statement (.nop5A) :=
  ⟨show (rowOf 0x5A#8).mnemonic = .nop from rfl, show (rowOf 0x5A#8).mode = .imp from rfl, rfl, rfl⟩
theorem sreAbsy (w : Word) : Statement (.sreAbsy w) :=
  ⟨show (rowOf 0x5B#8).mnemonic = .sre from rfl, show (rowOf 0x5B#8).mode = .absy from rfl, rfl, rfl⟩
theorem nopAbsx5C (w : Word) : Statement (.nopAbsx5C w) :=
  ⟨show (rowOf 0x5C#8).mnemonic = .nop from rfl, show (rowOf 0x5C#8).mode = .absx from rfl, rfl, rfl⟩
theorem eorAbsx (w : Word) : Statement (.eorAbsx w) :=
  ⟨show (rowOf 0x5D#8).mnemonic = .eor from rfl, show (rowOf 0x5D#8).mode = .absx from rfl, rfl, rfl⟩
theorem lsrAbsx (w : Word) : Statement (.lsrAbsx w) :=
  ⟨show (rowOf 0x5E#8).mnemonic = .lsr from rfl, show (rowOf 0x5E#8).mode = .absx from rfl, rfl, rfl⟩
theorem sreAbsx (w : Word) : Statement (.sreAbsx w) :=
  ⟨show (rowOf 0x5F#8).mnemonic = .sre from rfl, show (rowOf 0x5F#8).mode = .absx from rfl, rfl, rfl⟩
theorem rts : Statement (.rts) :=
  ⟨show (rowOf 0x60#8).mnemonic = .rts from rfl, show (rowOf 0x60#8).mode = .imp from rfl, rfl, rfl⟩
theorem adcIndx (b1 : Byte) : Statement (.adcIndx b1) :=
  ⟨show (rowOf 0x61#8).mnemonic = .adc from rfl, show (rowOf 0x61#8).mode = .indx from rfl, rfl, rfl⟩
theorem jam62 : Statement (.jam62) :=
  ⟨show (rowOf 0x62#8).mnemonic = .jam from rfl, show (rowOf 0x62#8).mode = .imp from rfl, rfl, rfl⟩
theorem rraIndx (b1 : Byte) : Statement (.rraIndx b1) :=
  ⟨show (rowOf 0x63#8).mnemonic = .rra from rfl, show (rowOf 0x63#8).mode = .indx from rfl, rfl, rfl⟩
theorem nopZp64 (b1 : Byte) : Statement (.nopZp64 b1) :=
  ⟨show (rowOf 0x64#8).mnemonic = .nop from rfl, show (rowOf 0x64#8).mode = .zp from rfl, rfl, rfl⟩
theorem adcZp (b1 : Byte) : Statement (.adcZp b1) :=
  ⟨show (rowOf 0x65#8).mnemonic = .adc from rfl, show (rowOf 0x65#8).mode = .zp from rfl, rfl, rfl⟩
theorem rorZp (b1 : Byte) : Statement (.rorZp b1) :=
  ⟨show (rowOf 0x66#8).mnemonic = .ror from rfl, show (rowOf 0x66#8).mode = .zp from rfl, rfl, rfl⟩
theorem rraZp (b1 : Byte) : Statement (.rraZp b1) :=
  ⟨show (rowOf 0x67#8).mnemonic = .rra from rfl, show (rowOf 0x67#8).mode = .zp from rfl, rfl, rfl⟩
theorem pla : Statement (.pla) :=
  ⟨show (rowOf 0x68#8).mnemonic = .pla from rfl, show (rowOf 0x68#8).mode = .imp from rfl, rfl, rfl⟩
theorem adcImm (b1 : Byte) : Statement (.adcImm b1) :=
  ⟨show (rowOf 0x69#8).mnemonic = .adc from rfl, show (rowOf 0x69#8).mode = .imm from rfl, rfl, rfl⟩
theorem rorAcc : Statement (.rorAcc) :=
  ⟨show (rowOf 0x6A#8).mnemonic = .ror from rfl, show (rowOf 0x6A#8).mode = .acc from rfl, rfl, rfl⟩
theorem arrImm (b1 : Byte) : Statement (.arrImm b1) :=
  ⟨show (rowOf 0x6B#8).mnemonic = .arr from rfl, show (rowOf 0x6B#8).mode = .imm from rfl, rfl, rfl⟩
theorem jmpInd (w : Word) : Statement (.jmpInd w) :=
  ⟨show (rowOf 0x6C#8).mnemonic = .jmp from rfl, show (rowOf 0x6C#8).mode = .ind from rfl, rfl, rfl⟩
theorem adcAbs (w : Word) : Statement (.adcAbs w) :=
  ⟨show (rowOf 0x6D#8).mnemonic = .adc from rfl, show (rowOf 0x6D#8).mode = .abs from rfl, rfl, rfl⟩
theorem rorAbs (w : Word) : Statement (.rorAbs w) :=
  ⟨show (rowOf 0x6E#8).mnemonic = .ror from rfl, show (rowOf 0x6E#8).mode = .abs from rfl, rfl, rfl⟩
theorem rraAbs (w : Word) : Statement (.rraAbs w) :=
  ⟨show (rowOf 0x6F#8).mnemonic = .rra from rfl, show (rowOf 0x6F#8).mode = .abs from rfl, rfl, rfl⟩
theorem bvsRel (off : Byte) : Statement (.bvsRel off) :=
  ⟨show (rowOf 0x70#8).mnemonic = .bvs from rfl, show (rowOf 0x70#8).mode = .rel from rfl, rfl, rfl⟩
theorem adcIndy (b1 : Byte) : Statement (.adcIndy b1) :=
  ⟨show (rowOf 0x71#8).mnemonic = .adc from rfl, show (rowOf 0x71#8).mode = .indy from rfl, rfl, rfl⟩
theorem jam72 : Statement (.jam72) :=
  ⟨show (rowOf 0x72#8).mnemonic = .jam from rfl, show (rowOf 0x72#8).mode = .imp from rfl, rfl, rfl⟩
theorem rraIndy (b1 : Byte) : Statement (.rraIndy b1) :=
  ⟨show (rowOf 0x73#8).mnemonic = .rra from rfl, show (rowOf 0x73#8).mode = .indy from rfl, rfl, rfl⟩
theorem nopZpx74 (b1 : Byte) : Statement (.nopZpx74 b1) :=
  ⟨show (rowOf 0x74#8).mnemonic = .nop from rfl, show (rowOf 0x74#8).mode = .zpx from rfl, rfl, rfl⟩
theorem adcZpx (b1 : Byte) : Statement (.adcZpx b1) :=
  ⟨show (rowOf 0x75#8).mnemonic = .adc from rfl, show (rowOf 0x75#8).mode = .zpx from rfl, rfl, rfl⟩
theorem rorZpx (b1 : Byte) : Statement (.rorZpx b1) :=
  ⟨show (rowOf 0x76#8).mnemonic = .ror from rfl, show (rowOf 0x76#8).mode = .zpx from rfl, rfl, rfl⟩
theorem rraZpx (b1 : Byte) : Statement (.rraZpx b1) :=
  ⟨show (rowOf 0x77#8).mnemonic = .rra from rfl, show (rowOf 0x77#8).mode = .zpx from rfl, rfl, rfl⟩
theorem sei : Statement (.sei) :=
  ⟨show (rowOf 0x78#8).mnemonic = .sei from rfl, show (rowOf 0x78#8).mode = .imp from rfl, rfl, rfl⟩
theorem adcAbsy (w : Word) : Statement (.adcAbsy w) :=
  ⟨show (rowOf 0x79#8).mnemonic = .adc from rfl, show (rowOf 0x79#8).mode = .absy from rfl, rfl, rfl⟩
theorem nop7A : Statement (.nop7A) :=
  ⟨show (rowOf 0x7A#8).mnemonic = .nop from rfl, show (rowOf 0x7A#8).mode = .imp from rfl, rfl, rfl⟩
theorem rraAbsy (w : Word) : Statement (.rraAbsy w) :=
  ⟨show (rowOf 0x7B#8).mnemonic = .rra from rfl, show (rowOf 0x7B#8).mode = .absy from rfl, rfl, rfl⟩
theorem nopAbsx7C (w : Word) : Statement (.nopAbsx7C w) :=
  ⟨show (rowOf 0x7C#8).mnemonic = .nop from rfl, show (rowOf 0x7C#8).mode = .absx from rfl, rfl, rfl⟩
theorem adcAbsx (w : Word) : Statement (.adcAbsx w) :=
  ⟨show (rowOf 0x7D#8).mnemonic = .adc from rfl, show (rowOf 0x7D#8).mode = .absx from rfl, rfl, rfl⟩
theorem rorAbsx (w : Word) : Statement (.rorAbsx w) :=
  ⟨show (rowOf 0x7E#8).mnemonic = .ror from rfl, show (rowOf 0x7E#8).mode = .absx from rfl, rfl, rfl⟩
theorem rraAbsx (w : Word) : Statement (.rraAbsx w) :=
  ⟨show (rowOf 0x7F#8).mnemonic = .rra from rfl, show (rowOf 0x7F#8).mode = .absx from rfl, rfl, rfl⟩
theorem nopImm80 (b1 : Byte) : Statement (.nopImm80 b1) :=
  ⟨show (rowOf 0x80#8).mnemonic = .nop from rfl, show (rowOf 0x80#8).mode = .imm from rfl, rfl, rfl⟩
theorem staIndx (b1 : Byte) : Statement (.staIndx b1) :=
  ⟨show (rowOf 0x81#8).mnemonic = .sta from rfl, show (rowOf 0x81#8).mode = .indx from rfl, rfl, rfl⟩
theorem nopImm82 (b1 : Byte) : Statement (.nopImm82 b1) :=
  ⟨show (rowOf 0x82#8).mnemonic = .nop from rfl, show (rowOf 0x82#8).mode = .imm from rfl, rfl, rfl⟩
theorem saxIndx (b1 : Byte) : Statement (.saxIndx b1) :=
  ⟨show (rowOf 0x83#8).mnemonic = .sax from rfl, show (rowOf 0x83#8).mode = .indx from rfl, rfl, rfl⟩
theorem styZp (b1 : Byte) : Statement (.styZp b1) :=
  ⟨show (rowOf 0x84#8).mnemonic = .sty from rfl, show (rowOf 0x84#8).mode = .zp from rfl, rfl, rfl⟩
theorem staZp (b1 : Byte) : Statement (.staZp b1) :=
  ⟨show (rowOf 0x85#8).mnemonic = .sta from rfl, show (rowOf 0x85#8).mode = .zp from rfl, rfl, rfl⟩
theorem stxZp (b1 : Byte) : Statement (.stxZp b1) :=
  ⟨show (rowOf 0x86#8).mnemonic = .stx from rfl, show (rowOf 0x86#8).mode = .zp from rfl, rfl, rfl⟩
theorem saxZp (b1 : Byte) : Statement (.saxZp b1) :=
  ⟨show (rowOf 0x87#8).mnemonic = .sax from rfl, show (rowOf 0x87#8).mode = .zp from rfl, rfl, rfl⟩
theorem dey : Statement (.dey) :=
  ⟨show (rowOf 0x88#8).mnemonic = .dey from rfl, show (rowOf 0x88#8).mode = .imp from rfl, rfl, rfl⟩
theorem nopImm89 (b1 : Byte) : Statement (.nopImm89 b1) :=
  ⟨show (rowOf 0x89#8).mnemonic = .nop from rfl, show (rowOf 0x89#8).mode = .imm from rfl, rfl, rfl⟩
theorem txa : Statement (.txa) :=
  ⟨show (rowOf 0x8A#8).mnemonic = .txa from rfl, show (rowOf 0x8A#8).mode = .imp from rfl, rfl, rfl⟩
theorem aneImm (b1 : Byte) : Statement (.aneImm b1) :=
  ⟨show (rowOf 0x8B#8).mnemonic = .ane from rfl, show (rowOf 0x8B#8).mode = .imm from rfl, rfl, rfl⟩
theorem styAbs (w : Word) : Statement (.styAbs w) :=
  ⟨show (rowOf 0x8C#8).mnemonic = .sty from rfl, show (rowOf 0x8C#8).mode = .abs from rfl, rfl, rfl⟩
theorem staAbs (w : Word) : Statement (.staAbs w) :=
  ⟨show (rowOf 0x8D#8).mnemonic = .sta from rfl, show (rowOf 0x8D#8).mode = .abs from rfl, rfl, rfl⟩
theorem stxAbs (w : Word) : Statement (.stxAbs w) :=
  ⟨show (rowOf 0x8E#8).mnemonic = .stx from rfl, show (rowOf 0x8E#8).mode = .abs from rfl, rfl, rfl⟩
theorem saxAbs (w : Word) : Statement (.saxAbs w) :=
  ⟨show (rowOf 0x8F#8).mnemonic = .sax from rfl, show (rowOf 0x8F#8).mode = .abs from rfl, rfl, rfl⟩
theorem bccRel (off : Byte) : Statement (.bccRel off) :=
  ⟨show (rowOf 0x90#8).mnemonic = .bcc from rfl, show (rowOf 0x90#8).mode = .rel from rfl, rfl, rfl⟩
theorem staIndy (b1 : Byte) : Statement (.staIndy b1) :=
  ⟨show (rowOf 0x91#8).mnemonic = .sta from rfl, show (rowOf 0x91#8).mode = .indy from rfl, rfl, rfl⟩
theorem jam92 : Statement (.jam92) :=
  ⟨show (rowOf 0x92#8).mnemonic = .jam from rfl, show (rowOf 0x92#8).mode = .imp from rfl, rfl, rfl⟩
theorem shaIndy (b1 : Byte) : Statement (.shaIndy b1) :=
  ⟨show (rowOf 0x93#8).mnemonic = .sha from rfl, show (rowOf 0x93#8).mode = .indy from rfl, rfl, rfl⟩
theorem styZpx (b1 : Byte) : Statement (.styZpx b1) :=
  ⟨show (rowOf 0x94#8).mnemonic = .sty from rfl, show (rowOf 0x94#8).mode = .zpx from rfl, rfl, rfl⟩
theorem staZpx (b1 : Byte) : Statement (.staZpx b1) :=
  ⟨show (rowOf 0x95#8).mnemonic = .sta from rfl, show (rowOf 0x95#8).mode = .zpx from rfl, rfl, rfl⟩
theorem stxZpy (b1 : Byte) : Statement (.stxZpy b1) :=
  ⟨show (rowOf 0x96#8).mnemonic = .stx from rfl, show (rowOf 0x96#8).mode = .zpy from rfl, rfl, rfl⟩
theorem saxZpy (b1 : Byte) : Statement (.saxZpy b1) :=
  ⟨show (rowOf 0x97#8).mnemonic = .sax from rfl, show (rowOf 0x97#8).mode = .zpy from rfl, rfl, rfl⟩
theorem tya : Statement (.tya) :=
  ⟨show (rowOf 0x98#8).mnemonic = .tya from rfl, show (rowOf 0x98#8).mode = .imp from rfl, rfl, rfl⟩
theorem staAbsy (w : Word) : Statement (.staAbsy w) :=
  ⟨show (rowOf 0x99#8).mnemonic = .sta from rfl, show (rowOf 0x99#8).mode = .absy from rfl, rfl, rfl⟩
theorem txs : Statement (.txs) :=
  ⟨show (rowOf 0x9A#8).mnemonic = .txs from rfl, show (rowOf 0x9A#8).mode = .imp from rfl, rfl, rfl⟩
theorem tasAbsy (w : Word) : Statement (.tasAbsy w) :=
  ⟨show (rowOf 0x9B#8).mnemonic = .tas from rfl, show (rowOf 0x9B#8).mode = .absy from rfl, rfl, rfl⟩
theorem shyAbsx (w : Word) : Statement (.shyAbsx w) :=
  ⟨show (rowOf 0x9C#8).mnemonic = .shy from rfl, show (rowOf 0x9C#8).mode = .absx from rfl, rfl, rfl⟩
theorem staAbsx (w : Word) : Statement (.staAbsx w) :=
  ⟨show (rowOf 0x9D#8).mnemonic = .sta from rfl, show (rowOf 0x9D#8).mode = .absx from rfl, rfl, rfl⟩
theorem shxAbsy (w : Word) : Statement (.shxAbsy w) :=
  ⟨show (rowOf 0x9E#8).mnemonic = .shx from rfl, show (rowOf 0x9E#8).mode = .absy from rfl, rfl, rfl⟩
theorem shaAbsy (w : Word) : Statement (.shaAbsy w) :=
  ⟨show (rowOf 0x9F#8).mnemonic = .sha from rfl, show (rowOf 0x9F#8).mode = .absy from rfl, rfl, rfl⟩
theorem ldyImm (b1 : Byte) : Statement (.ldyImm b1) :=
  ⟨show (rowOf 0xA0#8).mnemonic = .ldy from rfl, show (rowOf 0xA0#8).mode = .imm from rfl, rfl, rfl⟩
theorem ldaIndx (b1 : Byte) : Statement (.ldaIndx b1) :=
  ⟨show (rowOf 0xA1#8).mnemonic = .lda from rfl, show (rowOf 0xA1#8).mode = .indx from rfl, rfl, rfl⟩
theorem ldxImm (b1 : Byte) : Statement (.ldxImm b1) :=
  ⟨show (rowOf 0xA2#8).mnemonic = .ldx from rfl, show (rowOf 0xA2#8).mode = .imm from rfl, rfl, rfl⟩
theorem laxIndx (b1 : Byte) : Statement (.laxIndx b1) :=
  ⟨show (rowOf 0xA3#8).mnemonic = .lax from rfl, show (rowOf 0xA3#8).mode = .indx from rfl, rfl, rfl⟩
theorem ldyZp (b1 : Byte) : Statement (.ldyZp b1) :=
  ⟨show (rowOf 0xA4#8).mnemonic = .ldy from rfl, show (rowOf 0xA4#8).mode = .zp from rfl, rfl, rfl⟩
theorem ldaZp (b1 : Byte) : Statement (.ldaZp b1) :=
  ⟨show (rowOf 0xA5#8).mnemonic = .lda from rfl, show (rowOf 0xA5#8).mode = .zp from rfl, rfl, rfl⟩
theorem ldxZp (b1 : Byte) : Statement (.ldxZp b1) :=
  ⟨show (rowOf 0xA6#8).mnemonic = .ldx from rfl, show (rowOf 0xA6#8).mode = .zp from rfl, rfl, rfl⟩
theorem laxZp (b1 : Byte) : Statement (.laxZp b1) :=
  ⟨show (rowOf 0xA7#8).mnemonic = .lax from rfl, show (rowOf 0xA7#8).mode = .zp from rfl, rfl, rfl⟩
theorem tay : Statement (.tay) :=
  ⟨show (rowOf 0xA8#8).mnemonic = .tay from rfl, show (rowOf 0xA8#8).mode = .imp from rfl, rfl, rfl⟩
theorem ldaImm (b1 : Byte) : Statement (.ldaImm b1) :=
  ⟨show (rowOf 0xA9#8).mnemonic = .lda from rfl, show (rowOf 0xA9#8).mode = .imm from rfl, rfl, rfl⟩
theorem tax : Statement (.tax) :=
  ⟨show (rowOf 0xAA#8).mnemonic = .tax from rfl, show (rowOf 0xAA#8).mode = .imp from rfl, rfl, rfl⟩
theorem lxaImm (b1 : Byte) : Statement (.lxaImm b1) :=
  ⟨show (rowOf 0xAB#8).mnemonic = .lxa from rfl, show (rowOf 0xAB#8).mode = .imm from rfl, rfl, rfl⟩
theorem ldyAbs (w : Word) : Statement (.ldyAbs w) :=
  ⟨show (rowOf 0xAC#8).mnemonic = .ldy from rfl, show (rowOf 0xAC#8).mode = .abs from rfl, rfl, rfl⟩
theorem ldaAbs (w : Word) : Statement (.ldaAbs w) :=
  ⟨show (rowOf 0xAD#8).mnemonic = .lda from rfl, show (rowOf 0xAD#8).mode = .abs from rfl, rfl, rfl⟩
theorem ldxAbs (w : Word) : Statement (.ldxAbs w) :=
  ⟨show (rowOf 0xAE#8).mnemonic = .ldx from rfl, show (rowOf 0xAE#8).mode = .abs from rfl, rfl, rfl⟩
theorem laxAbs (w : Word) : Statement (.laxAbs w) :=
  ⟨show (rowOf 0xAF#8).mnemonic = .lax from rfl, show (rowOf 0xAF#8).mode = .abs from rfl, rfl, rfl⟩
theorem bcsRel (off : Byte) : Statement (.bcsRel off) :=
  ⟨show (rowOf 0xB0#8).mnemonic = .bcs from rfl, show (rowOf 0xB0#8).mode = .rel from rfl, rfl, rfl⟩
theorem ldaIndy (b1 : Byte) : Statement (.ldaIndy b1) :=
  ⟨show (rowOf 0xB1#8).mnemonic = .lda from rfl, show (rowOf 0xB1#8).mode = .indy from rfl, rfl, rfl⟩
theorem jamB2 : Statement (.jamB2) :=
  ⟨show (rowOf 0xB2#8).mnemonic = .jam from rfl, show (rowOf 0xB2#8).mode = .imp from rfl, rfl, rfl⟩
theorem laxIndy (b1 : Byte) : Statement (.laxIndy b1) :=
  ⟨show (rowOf 0xB3#8).mnemonic = .lax from rfl, show (rowOf 0xB3#8).mode = .indy from rfl, rfl, rfl⟩
theorem ldyZpx (b1 : Byte) : Statement (.ldyZpx b1) :=
  ⟨show (rowOf 0xB4#8).mnemonic = .ldy from rfl, show (rowOf 0xB4#8).mode = .zpx from rfl, rfl, rfl⟩
theorem ldaZpx (b1 : Byte) : Statement (.ldaZpx b1) :=
  ⟨show (rowOf 0xB5#8).mnemonic = .lda from rfl, show (rowOf 0xB5#8).mode = .zpx from rfl, rfl, rfl⟩
theorem ldxZpy (b1 : Byte) : Statement (.ldxZpy b1) :=
  ⟨show (rowOf 0xB6#8).mnemonic = .ldx from rfl, show (rowOf 0xB6#8).mode = .zpy from rfl, rfl, rfl⟩
theorem laxZpy (b1 : Byte) : Statement (.laxZpy b1) :=
  ⟨show (rowOf 0xB7#8).mnemonic = .lax from rfl, show (rowOf 0xB7#8).mode = .zpy from rfl, rfl, rfl⟩
theorem clv : Statement (.clv) :=
  ⟨show (rowOf 0xB8#8).mnemonic = .clv from rfl, show (rowOf 0xB8#8).mode = .imp from rfl, rfl, rfl⟩
theorem ldaAbsy (w : Word) : Statement (.ldaAbsy w) :=
  ⟨show (rowOf 0xB9#8).mnemonic = .lda from rfl, show (rowOf 0xB9#8).mode = .absy from rfl, rfl, rfl⟩
theorem tsx : Statement (.tsx) :=
  ⟨show (rowOf 0xBA#8).mnemonic = .tsx from rfl, show (rowOf 0xBA#8).mode = .imp from rfl, rfl, rfl⟩
theorem lasAbsy (w : Word) : Statement (.lasAbsy w) :=
  ⟨show (rowOf 0xBB#8).mnemonic = .las from rfl, show (rowOf 0xBB#8).mode = .absy from rfl, rfl, rfl⟩
theorem ldyAbsx (w : Word) : Statement (.ldyAbsx w) :=
  ⟨show (rowOf 0xBC#8).mnemonic = .ldy from rfl, show (rowOf 0xBC#8).mode = .absx from rfl, rfl, rfl⟩
theorem ldaAbsx (w : Word) : Statement (.ldaAbsx w) :=
  ⟨show (rowOf 0xBD#8).mnemonic = .lda from rfl, show (rowOf 0xBD#8).mode = .absx from rfl, rfl, rfl⟩
theorem ldxAbsy (w : Word) : Statement (.ldxAbsy w) :=
  ⟨show (rowOf 0xBE#8).mnemonic = .ldx from rfl, show (rowOf 0xBE#8).mode = .absy from rfl, rfl, rfl⟩
theorem laxAbsy (w : Word) : Statement (.laxAbsy w) :=
  ⟨show (rowOf 0xBF#8).mnemonic = .lax from rfl, show (rowOf 0xBF#8).mode = .absy from rfl, rfl, rfl⟩
theorem cpyImm (b1 : Byte) : Statement (.cpyImm b1) :=
  ⟨show (rowOf 0xC0#8).mnemonic = .cpy from rfl, show (rowOf 0xC0#8).mode = .imm from rfl, rfl, rfl⟩
theorem cmpIndx (b1 : Byte) : Statement (.cmpIndx b1) :=
  ⟨show (rowOf 0xC1#8).mnemonic = .cmp from rfl, show (rowOf 0xC1#8).mode = .indx from rfl, rfl, rfl⟩
theorem nopImmC2 (b1 : Byte) : Statement (.nopImmC2 b1) :=
  ⟨show (rowOf 0xC2#8).mnemonic = .nop from rfl, show (rowOf 0xC2#8).mode = .imm from rfl, rfl, rfl⟩
theorem dcpIndx (b1 : Byte) : Statement (.dcpIndx b1) :=
  ⟨show (rowOf 0xC3#8).mnemonic = .dcp from rfl, show (rowOf 0xC3#8).mode = .indx from rfl, rfl, rfl⟩
theorem cpyZp (b1 : Byte) : Statement (.cpyZp b1) :=
  ⟨show (rowOf 0xC4#8).mnemonic = .cpy from rfl, show (rowOf 0xC4#8).mode = .zp from rfl, rfl, rfl⟩
theorem cmpZp (b1 : Byte) : Statement (.cmpZp b1) :=
  ⟨show (rowOf 0xC5#8).mnemonic = .cmp from rfl, show (rowOf 0xC5#8).mode = .zp from rfl, rfl, rfl⟩
theorem decZp (b1 : Byte) : Statement (.decZp b1) :=
  ⟨show (rowOf 0xC6#8).mnemonic = .dec from rfl, show (rowOf 0xC6#8).mode = .zp from rfl, rfl, rfl⟩
theorem dcpZp (b1 : Byte) : Statement (.dcpZp b1) :=
  ⟨show (rowOf 0xC7#8).mnemonic = .dcp from rfl, show (rowOf 0xC7#8).mode = .zp from rfl, rfl, rfl⟩
theorem iny : Statement (.iny) :=
  ⟨show (rowOf 0xC8#8).mnemonic = .iny from rfl, show (rowOf 0xC8#8).mode = .imp from rfl, rfl, rfl⟩
theorem cmpImm (b1 : Byte) : Statement (.cmpImm b1) :=
  ⟨show (rowOf 0xC9#8).mnemonic = .cmp from rfl, show (rowOf 0xC9#8).mode = .imm from rfl, rfl, rfl⟩
theorem dex : Statement (.dex) :=
  ⟨show (rowOf 0xCA#8).mnemonic = .dex from rfl, show (rowOf 0xCA#8).mode = .imp from rfl, rfl, rfl⟩
theorem sbxImm (b1 : Byte) : Statement (.sbxImm b1) :=
  ⟨show (rowOf 0xCB#8).mnemonic = .sbx from rfl, show (rowOf 0xCB#8).mode = .imm from rfl, rfl, rfl⟩
theorem cpyAbs (w : Word) : Statement (.cpyAbs w) :=
  ⟨show (rowOf 0xCC#8).mnemonic = .cpy from rfl, show (rowOf 0xCC#8).mode = .abs from rfl, rfl, rfl⟩
theorem cmpAbs (w : Word) : Statement (.cmpAbs w) :=
  ⟨show (rowOf 0xCD#8).mnemonic = .cmp from rfl, show (rowOf 0xCD#8).mode = .abs from rfl, rfl, rfl⟩
theorem decAbs (w : Word) : Statement (.decAbs w) :=
  ⟨show (rowOf 0xCE#8).mnemonic = .dec from rfl, show (rowOf 0xCE#8).mode = .abs from rfl, rfl, rfl⟩
theorem dcpAbs (w : Word) : Statement (.dcpAbs w) :=
  ⟨show (rowOf 0xCF#8).mnemonic = .dcp from rfl, show (rowOf 0xCF#8).mode = .abs from rfl, rfl, rfl⟩
theorem bneRel (off : Byte) : Statement (.bneRel off) :=
  ⟨show (rowOf 0xD0#8).mnemonic = .bne from rfl, show (rowOf 0xD0#8).mode = .rel from rfl, rfl, rfl⟩
theorem cmpIndy (b1 : Byte) : Statement (.cmpIndy b1) :=
  ⟨show (rowOf 0xD1#8).mnemonic = .cmp from rfl, show (rowOf 0xD1#8).mode = .indy from rfl, rfl, rfl⟩
theorem jamD2 : Statement (.jamD2) :=
  ⟨show (rowOf 0xD2#8).mnemonic = .jam from rfl, show (rowOf 0xD2#8).mode = .imp from rfl, rfl, rfl⟩
theorem dcpIndy (b1 : Byte) : Statement (.dcpIndy b1) :=
  ⟨show (rowOf 0xD3#8).mnemonic = .dcp from rfl, show (rowOf 0xD3#8).mode = .indy from rfl, rfl, rfl⟩
theorem nopZpxD4 (b1 : Byte) : Statement (.nopZpxD4 b1) :=
  ⟨show (rowOf 0xD4#8).mnemonic = .nop from rfl, show (rowOf 0xD4#8).mode = .zpx from rfl, rfl, rfl⟩
theorem cmpZpx (b1 : Byte) : Statement (.cmpZpx b1) :=
  ⟨show (rowOf 0xD5#8).mnemonic = .cmp from rfl, show (rowOf 0xD5#8).mode = .zpx from rfl, rfl, rfl⟩
theorem decZpx (b1 : Byte) : Statement (.decZpx b1) :=
  ⟨show (rowOf 0xD6#8).mnemonic = .dec from rfl, show (rowOf 0xD6#8).mode = .zpx from rfl, rfl, rfl⟩
theorem dcpZpx (b1 : Byte) : Statement (.dcpZpx b1) :=
  ⟨show (rowOf 0xD7#8).mnemonic = .dcp from rfl, show (rowOf 0xD7#8).mode = .zpx from rfl, rfl, rfl⟩
theorem cld : Statement (.cld) :=
  ⟨show (rowOf 0xD8#8).mnemonic = .cld from rfl, show (rowOf 0xD8#8).mode = .imp from rfl, rfl, rfl⟩
theorem cmpAbsy (w : Word) : Statement (.cmpAbsy w) :=
  ⟨show (rowOf 0xD9#8).mnemonic = .cmp from rfl, show (rowOf 0xD9#8).mode = .absy from rfl, rfl, rfl⟩
theorem nopDA : Statement (.nopDA) :=
  ⟨show (rowOf 0xDA#8).mnemonic = .nop from rfl, show (rowOf 0xDA#8).mode = .imp from rfl, rfl, rfl⟩
theorem dcpAbsy (w : Word) : Statement (.dcpAbsy w) :=
  ⟨show (rowOf 0xDB#8).mnemonic = .dcp from rfl, show (rowOf 0xDB#8).mode = .absy from rfl, rfl, rfl⟩
theorem nopAbsxDC (w : Word) : Statement (.nopAbsxDC w) :=
  ⟨show (rowOf 0xDC#8).mnemonic = .nop from rfl, show (rowOf 0xDC#8).mode = .absx from rfl, rfl, rfl⟩
theorem cmpAbsx (w : Word) : Statement (.cmpAbsx w) :=
  ⟨show (rowOf 0xDD#8).mnemonic = .cmp from rfl, show (rowOf 0xDD#8).mode = .absx from rfl, rfl, rfl⟩
theorem decAbsx (w : Word) : Statement (.decAbsx w) :=
  ⟨show (rowOf 0xDE#8).mnemonic = .dec from rfl, show (rowOf 0xDE#8).mode = .absx from rfl, rfl, rfl⟩
theorem dcpAbsx (w : Word) : Statement (.dcpAbsx w) :=
  ⟨show (rowOf 0xDF#8).mnemonic = .dcp from rfl, show (rowOf 0xDF#8).mode = .absx from rfl, rfl, rfl⟩
theorem cpxImm (b1 : Byte) : Statement (.cpxImm b1) :=
  ⟨show (rowOf 0xE0#8).mnemonic = .cpx from rfl, show (rowOf 0xE0#8).mode = .imm from rfl, rfl, rfl⟩
theorem sbcIndx (b1 : Byte) : Statement (.sbcIndx b1) :=
  ⟨show (rowOf 0xE1#8).mnemonic = .sbc from rfl, show (rowOf 0xE1#8).mode = .indx from rfl, rfl, rfl⟩
theorem nopImmE2 (b1 : Byte) : Statement (.nopImmE2 b1) :=
  ⟨show (rowOf 0xE2#8).mnemonic = .nop from rfl, show (rowOf 0xE2#8).mode = .imm from rfl, rfl, rfl⟩
theorem iscIndx (b1 : Byte) : Statement (.iscIndx b1) :=
  ⟨show (rowOf 0xE3#8).mnemonic = .isc from rfl, show (rowOf 0xE3#8).mode = .indx from rfl, rfl, rfl⟩
theorem cpxZp (b1 : Byte) : Statement (.cpxZp b1) :=
  ⟨show (rowOf 0xE4#8).mnemonic = .cpx from rfl, show (rowOf 0xE4#8).mode = .zp from rfl, rfl, rfl⟩
theorem sbcZp (b1 : Byte) : Statement (.sbcZp b1) :=
  ⟨show (rowOf 0xE5#8).mnemonic = .sbc from rfl, show (rowOf 0xE5#8).mode = .zp from rfl, rfl, rfl⟩
theorem incZp (b1 : Byte) : Statement (.incZp b1) :=
  ⟨show (rowOf 0xE6#8).mnemonic = .inc from rfl, show (rowOf 0xE6#8).mode = .zp from rfl, rfl, rfl⟩
theorem iscZp (b1 : Byte) : Statement (.iscZp b1) :=
  ⟨show (rowOf 0xE7#8).mnemonic = .isc from rfl, show (rowOf 0xE7#8).mode = .zp from rfl, rfl, rfl⟩
theorem inx : Statement (.inx) :=
  ⟨show (rowOf 0xE8#8).mnemonic = .inx from rfl, show (rowOf 0xE8#8).mode = .imp from rfl, rfl, rfl⟩
theorem sbcImm (b1 : Byte) : Statement (.sbcImm b1) :=
  ⟨show (rowOf 0xE9#8).mnemonic = .sbc from rfl, show (rowOf 0xE9#8).mode = .imm from rfl, rfl, rfl⟩
theorem nop : Statement (.nop) :=
  ⟨show (rowOf 0xEA#8).mnemonic = .nop from rfl, show (rowOf 0xEA#8).mode = .imp from rfl, rfl, rfl⟩
theorem usbcImm (b1 : Byte) : Statement (.usbcImm b1) :=
  ⟨show (rowOf 0xEB#8).mnemonic = .usbc from rfl, show (rowOf 0xEB#8).mode = .imm from rfl, rfl, rfl⟩
theorem cpxAbs (w : Word) : Statement (.cpxAbs w) :=
  ⟨show (rowOf 0xEC#8).mnemonic = .cpx from rfl, show (rowOf 0xEC#8).mode = .abs from rfl, rfl, rfl⟩
theorem sbcAbs (w : Word) : Statement (.sbcAbs w) :=
  ⟨show (rowOf 0xED#8).mnemonic = .sbc from rfl, show (rowOf 0xED#8).mode = .abs from rfl, rfl, rfl⟩
theorem incAbs (w : Word) : Statement (.incAbs w) :=
  ⟨show (rowOf 0xEE#8).mnemonic = .inc from rfl, show (rowOf 0xEE#8).mode = .abs from rfl, rfl, rfl⟩
theorem iscAbs (w : Word) : Statement (.iscAbs w) :=
  ⟨show (rowOf 0xEF#8).mnemonic = .isc from rfl, show (rowOf 0xEF#8).mode = .abs from rfl, rfl, rfl⟩
theorem beqRel (off : Byte) : Statement (.beqRel off) :=
  ⟨show (rowOf 0xF0#8).mnemonic = .beq from rfl, show (rowOf 0xF0#8).mode = .rel from rfl, rfl, rfl⟩
theorem sbcIndy (b1 : Byte) : Statement (.sbcIndy b1) :=
  ⟨show (rowOf 0xF1#8).mnemonic = .sbc from rfl, show (rowOf 0xF1#8).mode = .indy from rfl, rfl, rfl⟩
theorem jamF2 : Statement (.jamF2) :=
  ⟨show (rowOf 0xF2#8).mnemonic = .jam from rfl, show (rowOf 0xF2#8).mode = .imp from rfl, rfl, rfl⟩
theorem iscIndy (b1 : Byte) : Statement (.iscIndy b1) :=
  ⟨show (rowOf 0xF3#8).mnemonic = .isc from rfl, show (rowOf 0xF3#8).mode = .indy from rfl, rfl, rfl⟩
theorem nopZpxF4 (b1 : Byte) : Statement (.nopZpxF4 b1) :=
  ⟨show (rowOf 0xF4#8).mnemonic = .nop from rfl, show (rowOf 0xF4#8).mode = .zpx from rfl, rfl, rfl⟩
theorem sbcZpx (b1 : Byte) : Statement (.sbcZpx b1) :=
  ⟨show (rowOf 0xF5#8).mnemonic = .sbc from rfl, show (rowOf 0xF5#8).mode = .zpx from rfl, rfl, rfl⟩
theorem incZpx (b1 : Byte) : Statement (.incZpx b1) :=
  ⟨show (rowOf 0xF6#8).mnemonic = .inc from rfl, show (rowOf 0xF6#8).mode = .zpx from rfl, rfl, rfl⟩
theorem iscZpx (b1 : Byte) : Statement (.iscZpx b1) :=
  ⟨show (rowOf 0xF7#8).mnemonic = .isc from rfl, show (rowOf 0xF7#8).mode = .zpx from rfl, rfl, rfl⟩
theorem sed : Statement (.sed) :=
  ⟨show (rowOf 0xF8#8).mnemonic = .sed from rfl, show (rowOf 0xF8#8).mode = .imp from rfl, rfl, rfl⟩
theorem sbcAbsy (w : Word) : Statement (.sbcAbsy w) :=
  ⟨show (rowOf 0xF9#8).mnemonic = .sbc from rfl, show (rowOf 0xF9#8).mode = .absy from rfl, rfl, rfl⟩
theorem nopFA : Statement (.nopFA) :=
  ⟨show (rowOf 0xFA#8).mnemonic = .nop from rfl, show (rowOf 0xFA#8).mode = .imp from rfl, rfl, rfl⟩
theorem iscAbsy (w : Word) : Statement (.iscAbsy w) :=
  ⟨show (rowOf 0xFB#8).mnemonic = .isc from rfl, show (rowOf 0xFB#8).mode = .absy from rfl, rfl, rfl⟩
theorem nopAbsxFC (w : Word) : Statement (.nopAbsxFC w) :=
  ⟨show (rowOf 0xFC#8).mnemonic = .nop from rfl, show (rowOf 0xFC#8).mode = .absx from rfl, rfl, rfl⟩
theorem sbcAbsx (w : Word) : Statement (.sbcAbsx w) :=
  ⟨show (rowOf 0xFD#8).mnemonic = .sbc from rfl, show (rowOf 0xFD#8).mode = .absx from rfl, rfl, rfl⟩
theorem incAbsx (w : Word) : Statement (.incAbsx w) :=
  ⟨show (rowOf 0xFE#8).mnemonic = .inc from rfl, show (rowOf 0xFE#8).mode = .absx from rfl, rfl, rfl⟩
theorem iscAbsx (w : Word) : Statement (.iscAbsx w) :=
  ⟨show (rowOf 0xFF#8).mnemonic = .isc from rfl, show (rowOf 0xFF#8).mode = .absx from rfl, rfl, rfl⟩

end Sys2Proof.Laws.FormAgrees
end

