-- ==== Sys2Proof/Laws/Sequences.lean ====
section
/-! SUPPORT. Accesses that follow a part of a step which may have stored: each extends the list of writes,
the list of records and the CPU of `Ran`. With them the shared exception operations are said once. -/

namespace Sys2Proof.Machine

variable {s t : State} {ws : List (Word × Byte)} {recs : List AccessRecord} {c : Cpu}

/-- The CPU record after a part. -/
theorem Ran.getCpu {Q : Cpu → State → Prop} (h : Ran s ws recs c t) (k : Q c t) :
    Completes Machine.getCpu t Q :=
  Completes.getCpu (by rw [h.cpu]; exact k)

/-- A change of the CPU after a part. -/
theorem Ran.updCpu (h : Ran s ws recs c t) (f : Cpu → Cpu) :
    Completes (Machine.updCpu f) t fun _ u => Ran s ws recs (f c) u :=
  Completes.updCpu (h.mapCpu f)

/-- A read after a part sees what the part wrote. -/
theorem Ran.memRead (hp : s.production) (h : Ran s ws recs c t) (kind : AccessKind) (a : Word) :
    Completes (Machine.memRead kind a) t fun v u =>
      Ran s ws (recs ++ [readRec s recs.length kind a v]) c u ∧ s.ReadsAfter ws a v :=
  (memRead_completes (h.frame.others.production hp) kind a).mono fun v u ⟨hr, hv⟩ => by
    rw [h.now] at hr
    have k := h.trans (hr.ran h.frame.canonical)
    rw [List.append_nil, h.cpu] at k
    exact ⟨k, by simpa using h.frame.readsAfter hv⟩

/-- A dummy read after a part. -/
theorem Ran.dummyRead (hp : s.production) (h : Ran s ws recs c t) (a : Word) :
    Completes (Machine.dummyRead a) t fun _ u =>
      ∃ v, Ran s ws (recs ++ [readRec s recs.length .dummy a v]) c u :=
  (h.memRead hp .dummy a).bind fun v _ hv => Completes.pure ⟨v, hv.1⟩

/-- A dummy read at PC after a part. -/
theorem Ran.dummyPc (hp : s.production) (h : Ran s ws recs c t) :
    Completes Machine.dummyPc t fun _ u =>
      ∃ v, Ran s ws (recs ++ [readRec s recs.length .dummy c.pc v]) c u :=
  (h.getCpu (Q := fun d u => d = c ∧ u = t) ⟨rfl, rfl⟩).bind fun _ _ hq => by
    obtain ⟨rfl, rfl⟩ := hq
    exact h.dummyRead hp _

/-- A dummy stack read after a part. -/
theorem Ran.dummyStack (hp : s.production) (h : Ran s ws recs c t) :
    Completes Machine.dummyStack t fun _ u =>
      ∃ v, Ran s ws (recs ++ [readRec s recs.length .dummy (stackAddr c.s) v]) c u :=
  (h.getCpu (Q := fun d u => d = c ∧ u = t) ⟨rfl, rfl⟩).bind fun _ _ hq => by
    obtain ⟨rfl, rfl⟩ := hq
    exact h.dummyRead hp _

/-- A write after a part. -/
theorem Ran.memWrite (hp : s.production) (h : Ran s ws recs c t) (kind : AccessKind) (a : Word) (v : Byte) :
    Completes (Machine.memWrite kind a v) t fun _ u =>
      Ran s (ws ++ [(a, v)]) (recs ++ [writeRec s recs.length kind a v]) c u :=
  (memWrite_completes (h.frame.others.production hp) h.frame.canonical kind a v).mono fun _ u hr => by
    rw [h.now, h.cpu] at hr
    exact h.trans hr

/-- A push after a part. -/
theorem Ran.push (hp : s.production) (h : Ran s ws recs c t) (v : Byte) :
    Completes (Machine.push v) t fun _ u =>
      Ran s (ws ++ [(stackAddr c.s, v)]) (recs ++ [writeRec s recs.length .stack (stackAddr c.s) v])
        { c with s := c.s - 1#8 } u :=
  (h.getCpu (Q := fun d u => d = c ∧ u = t) ⟨rfl, rfl⟩).bind fun _ _ hq => by
    obtain ⟨rfl, rfl⟩ := hq
    exact (h.memWrite hp .stack _ v).bind fun _ _ k => k.updCpu fun c => { c with s := c.s - 1#8 }

/-- A pull after a part. -/
theorem Ran.pull (hp : s.production) (h : Ran s ws recs c t) :
    Completes Machine.pull t fun v u =>
      Ran s ws (recs ++ [readRec s recs.length .stack (stackAddr (c.s + 1#8)) v])
        { c with s := c.s + 1#8 } u ∧ s.ReadsAfter ws (stackAddr (c.s + 1#8)) v :=
  (h.updCpu fun c => { c with s := c.s + 1#8 }).bind fun _ _ k =>
    (k.getCpu (Q := fun d u => d = { c with s := c.s + 1#8 } ∧ Ran s ws recs d u) ⟨rfl, k⟩).bind
      fun _ _ hq => by
        obtain ⟨rfl, k'⟩ := hq
        exact k'.memRead hp .stack _

/-- A fetch of an operand byte after a part. -/
theorem Ran.fetch (hp : s.production) (h : Ran s ws recs c t) :
    Completes Machine.fetch t fun v u =>
      Ran s ws (recs ++ [readRec s recs.length .operand c.pc v]) { c with pc := c.pc + 1#16 } u
        ∧ s.ReadsAfter ws c.pc v :=
  (h.getCpu (Q := fun d u => d = c ∧ u = t) ⟨rfl, rfl⟩).bind fun _ _ hq => by
    obtain ⟨rfl, rfl⟩ := hq
    exact (h.memRead hp .operand _).bind fun v _ k =>
      (k.1.updCpu fun c => { c with pc := c.pc + 1#16 }).bind fun _ _ k2 => Completes.pure ⟨k2, k.2⟩

/-- A reset's stack read in place of a push: S moves down and nothing is written (R304). -/
theorem Ran.resetPush (hp : s.production) (h : Ran s ws recs c t) :
    Completes Machine.resetPush t fun _ u =>
      ∃ v, Ran s ws (recs ++ [readRec s recs.length .dummy (stackAddr c.s) v])
        { c with s := c.s - 1#8 } u :=
  (h.dummyStack hp).bind fun _ _ ⟨v, k⟩ =>
    (k.updCpu fun c => { c with s := c.s - 1#8 }).mono fun _ _ k2 => ⟨v, k2⟩

/-- What taking an exception does, after a part that left the CPU `c`: three pushes, I set, and PC loaded
from the vector, which is read after the pushes (R540, R880). -/
theorem Ran.takeException (hp : s.production) (h : Ran s ws recs c t) (b : Bool) (vector : Word) :
    Completes (Machine.takeException b vector) t fun _ u => ∃ lo hi, ∀ vs,
      vs = ws ++ [(stackAddr c.s, hiByte c.pc), (stackAddr (c.s - 1#8), loByte c.pc),
        (stackAddr (c.s - 1#8 - 1#8), c.pByte b)] →
      s.ReadsAfter vs vector lo ∧ s.ReadsAfter vs (vector + 1#16) hi
      ∧ Ran s vs (recs ++ [writeRec s recs.length .stack (stackAddr c.s) (hiByte c.pc),
          writeRec s (recs.length + 1) .stack (stackAddr (c.s - 1#8)) (loByte c.pc),
          writeRec s (recs.length + 2) .stack (stackAddr (c.s - 1#8 - 1#8)) (c.pByte b),
          readRec s (recs.length + 3) .vector vector lo,
          readRec s (recs.length + 4) .vector (vector + 1#16) hi])
        { c with s := c.s - 1#8 - 1#8 - 1#8, flagI := true, pc := mkWord hi lo } u := by
  refine (h.getCpu (Q := fun d u => c = d ∧ t = u) ⟨rfl, rfl⟩).bind ?_
  rintro _ _ ⟨rfl, rfl⟩
  refine (h.push hp _).bind fun _ t1 h1 => (h1.push hp _).bind fun _ t2 h2 => ?_
  refine (h2.getCpu (Q := fun d u => _ = d ∧ t2 = u) ⟨rfl, rfl⟩).bind ?_
  rintro _ _ ⟨rfl, rfl⟩
  refine (h2.push hp _).bind fun _ t3 h3 => ?_
  refine (h3.updCpu fun c => { c with flagI := true }).bind fun _ t4 h4 => ?_
  refine (h4.memRead hp .vector vector).bind fun lo t5 h5 => ?_
  refine (h5.1.memRead hp .vector (vector + 1#16)).bind fun hi t6 h6 => ?_
  refine (h6.1.updCpu fun c => { c with pc := mkWord hi lo }).mono fun _ t7 h7 => ⟨lo, hi, fun vs hvs => ?_⟩
  have e : ws ++ [(stackAddr c.s, hiByte c.pc)] ++ [(stackAddr (c.s - 1#8), loByte c.pc)]
      ++ [(stackAddr (c.s - 1#8 - 1#8), c.pByte b)] = vs := by rw [hvs]; simp
  have k5 := h5.2
  have k6 := h6.2
  have k7 := h7
  have ep : ({ c with s := c.s - 1#8 - 1#8 } : Cpu).pByte b = c.pByte b := rfl
  simp only [ep] at k5 k6 k7
  rw [e] at k5 k6 k7
  refine ⟨k5, k6, ?_⟩
  simpa [List.append_assoc, Nat.add_assoc] using k7

/-- What returning from an exception does, after a part: the status byte, then PC, are pulled (R537,
R882). -/
theorem Ran.returnFromException (hp : s.production) (h : Ran s ws recs c t) :
    Completes Machine.returnFromException t fun _ u => ∃ p lo hi,
      s.ReadsAfter ws (stackAddr (c.s + 1#8)) p ∧ s.ReadsAfter ws (stackAddr (c.s + 1#8 + 1#8)) lo
      ∧ s.ReadsAfter ws (stackAddr (c.s + 1#8 + 1#8 + 1#8)) hi
      ∧ Ran s ws (recs ++ [readRec s recs.length .stack (stackAddr (c.s + 1#8)) p,
          readRec s (recs.length + 1) .stack (stackAddr (c.s + 1#8 + 1#8)) lo,
          readRec s (recs.length + 2) .stack (stackAddr (c.s + 1#8 + 1#8 + 1#8)) hi])
        ({ (c.setP p) with s := c.s + 1#8 + 1#8 + 1#8, pc := mkWord hi lo }) u := by
  refine (h.pull hp).bind fun p t1 h1 => (h1.1.updCpu (Cpu.setP p)).bind fun _ t2 h2 => ?_
  refine (h2.pull hp).bind fun lo t3 h3 => (h3.1.pull hp).bind fun hi t4 h4 => ?_
  refine (h4.1.updCpu fun c => { c with pc := mkWord hi lo }).mono fun _ t5 h5 => ?_
  refine ⟨p, lo, hi, h1.2, h3.2, h4.2, ?_⟩
  simpa [List.append_assoc, Nat.add_assoc, Cpu.setP] using h5

end Sys2Proof.Machine
end

