-- ==== Sys2Proof/Tests/Slice0.lean ====
section
/-! SUPPORT. Tests of the model, each a named theorem. Expected values come from spec/ (the opcode map of
30_encoding.md R263, the vectors of 95_test_vectors.md, named by their ids, the byte layouts of
48_snapshot.md), never from the model. The witnesses at the end show, for each statement that has
hypotheses, a concrete state and operands that meet them together. -/

namespace Sys2Proof.Tests

open Sys2Proof Sys2Proof.Machine

-- One test after another: each asks the kernel, and many at once would each hold a thread.
set_option Elab.async false

/-! ## WellFormed refuses what the prose does not give -/

/-- There is no STA immediate: 0x89 is a NOP (R264). -/
theorem test_sta_imm_ill_formed : formWellFormed .sta .imm = false := by decide
/-- LDX is indexed with Y, not X (R262). -/
theorem test_ldx_zpx_ill_formed : formWellFormed .ldx .zpx = false := by decide
/-- JMP has no (zp,X) form (R259). -/
theorem test_jmp_indx_ill_formed : formWellFormed .jmp .indx = false := by decide
/-- CPX has no indexed form (R460). -/
theorem test_cpx_absx_ill_formed : formWellFormed .cpx .absx = false := by decide
/-- No branch but a relative one (R260). -/
theorem test_beq_abs_ill_formed : formWellFormed .beq .abs = false := by decide
/-- The forms LDX and STA do have. -/
theorem test_forms_well_formed :
    formWellFormed .ldx .zpy = true ∧ formWellFormed .sta .absx = true := by decide

/-! ## Decoding -/

/-- The instruction each byte sequence is, where every one is whole. -/
def decodeAll : List (List Byte) → Option (List Instr)
  | [] => some []
  | bs :: rest =>
    match decode bs with
    | .ok (i, []) => (decodeAll rest).map (i :: ·)
    | _ => none

/-- A byte sequence is refused by name only where it ends before its instruction does (R268). -/
theorem test_decode_refuses_short :
    decode [] = .error .noOpcode ∧ decode [0xA9] = .error (.missingOperand 0xA9)
      ∧ decode [0x4C, 0x00] = .error (.missingOperand 0x4C) := by
  refine ⟨rfl, rfl, rfl⟩

/-- The bytes after an instruction are left over (R250). -/
theorem test_decode_leaves_rest : decode [0xEA, 0xA9, 0x80] = .ok (.nop, [0xA9, 0x80]) := by rfl

/-- The table's bit numbering: the second byte is bits 15 to 8 (spec/opcode_table.json). -/
theorem test_table_word :
    decodeTableWord 24 0x2010BD = some (.ldaAbsx 0x2010) ∧ decodeTableWord 8 0xA9 = some (.ldaImm 0x00) := by
  refine ⟨rfl, rfl⟩

/-- Row 0x of the opcode map (30_encoding.md R263), operand bytes 0x34 and 0x12 (R251). -/
theorem test_decode_0x :
    decodeAll [[0x00], [0x01, 0x34], [0x02], [0x03, 0x34], [0x04, 0x34], [0x05, 0x34],
      [0x06, 0x34], [0x07, 0x34], [0x08], [0x09, 0x34], [0x0A], [0x0B, 0x34],
      [0x0C, 0x34, 0x12], [0x0D, 0x34, 0x12], [0x0E, 0x34, 0x12], [0x0F, 0x34, 0x12]]
    = some [.brk, .oraIndx 0x34, .jam02, .sloIndx 0x34, .nopZp04 0x34,
      .oraZp 0x34, .aslZp 0x34, .sloZp 0x34, .php, .oraImm 0x34,
      .aslAcc, .ancImm0B 0x34, .nopAbs 0x1234, .oraAbs 0x1234, .aslAbs 0x1234,
      .sloAbs 0x1234] := by
  rfl

/-- Row 1x of the opcode map (30_encoding.md R263), operand bytes 0x34 and 0x12 (R251). -/
theorem test_decode_1x :
    decodeAll [[0x10, 0x34], [0x11, 0x34], [0x12], [0x13, 0x34], [0x14, 0x34], [0x15, 0x34],
      [0x16, 0x34], [0x17, 0x34], [0x18], [0x19, 0x34, 0x12], [0x1A], [0x1B, 0x34, 0x12],
      [0x1C, 0x34, 0x12], [0x1D, 0x34, 0x12], [0x1E, 0x34, 0x12], [0x1F, 0x34, 0x12]]
    = some [.bplRel 0x34, .oraIndy 0x34, .jam12, .sloIndy 0x34, .nopZpx14 0x34,
      .oraZpx 0x34, .aslZpx 0x34, .sloZpx 0x34, .clc, .oraAbsy 0x1234,
      .nop1A, .sloAbsy 0x1234, .nopAbsx1C 0x1234, .oraAbsx 0x1234, .aslAbsx 0x1234,
      .sloAbsx 0x1234] := by
  rfl

/-- Row 2x of the opcode map (30_encoding.md R263), operand bytes 0x34 and 0x12 (R251). -/
theorem test_decode_2x :
    decodeAll [[0x20, 0x34, 0x12], [0x21, 0x34], [0x22], [0x23, 0x34], [0x24, 0x34], [0x25, 0x34],
      [0x26, 0x34], [0x27, 0x34], [0x28], [0x29, 0x34], [0x2A], [0x2B, 0x34],
      [0x2C, 0x34, 0x12], [0x2D, 0x34, 0x12], [0x2E, 0x34, 0x12], [0x2F, 0x34, 0x12]]
    = some [.jsrAbs 0x1234, .andIndx 0x34, .jam22, .rlaIndx 0x34, .bitZp 0x34,
      .andZp 0x34, .rolZp 0x34, .rlaZp 0x34, .plp, .andImm 0x34,
      .rolAcc, .ancImm2B 0x34, .bitAbs 0x1234, .andAbs 0x1234, .rolAbs 0x1234,
      .rlaAbs 0x1234] := by
  rfl

/-- Row 3x of the opcode map (30_encoding.md R263), operand bytes 0x34 and 0x12 (R251). -/
theorem test_decode_3x :
    decodeAll [[0x30, 0x34], [0x31, 0x34], [0x32], [0x33, 0x34], [0x34, 0x34], [0x35, 0x34],
      [0x36, 0x34], [0x37, 0x34], [0x38], [0x39, 0x34, 0x12], [0x3A], [0x3B, 0x34, 0x12],
      [0x3C, 0x34, 0x12], [0x3D, 0x34, 0x12], [0x3E, 0x34, 0x12], [0x3F, 0x34, 0x12]]
    = some [.bmiRel 0x34, .andIndy 0x34, .jam32, .rlaIndy 0x34, .nopZpx34 0x34,
      .andZpx 0x34, .rolZpx 0x34, .rlaZpx 0x34, .sec, .andAbsy 0x1234,
      .nop3A, .rlaAbsy 0x1234, .nopAbsx3C 0x1234, .andAbsx 0x1234, .rolAbsx 0x1234,
      .rlaAbsx 0x1234] := by
  rfl

/-- Row 4x of the opcode map (30_encoding.md R263), operand bytes 0x34 and 0x12 (R251). -/
theorem test_decode_4x :
    decodeAll [[0x40], [0x41, 0x34], [0x42], [0x43, 0x34], [0x44, 0x34], [0x45, 0x34],
      [0x46, 0x34], [0x47, 0x34], [0x48], [0x49, 0x34], [0x4A], [0x4B, 0x34],
      [0x4C, 0x34, 0x12], [0x4D, 0x34, 0x12], [0x4E, 0x34, 0x12], [0x4F, 0x34, 0x12]]
    = some [.rti, .eorIndx 0x34, .jam42, .sreIndx 0x34, .nopZp44 0x34,
      .eorZp 0x34, .lsrZp 0x34, .sreZp 0x34, .pha, .eorImm 0x34,
      .lsrAcc, .alrImm 0x34, .jmpAbs 0x1234, .eorAbs 0x1234, .lsrAbs 0x1234,
      .sreAbs 0x1234] := by
  rfl

/-- Row 5x of the opcode map (30_encoding.md R263), operand bytes 0x34 and 0x12 (R251). -/
theorem test_decode_5x :
    decodeAll [[0x50, 0x34], [0x51, 0x34], [0x52], [0x53, 0x34], [0x54, 0x34], [0x55, 0x34],
      [0x56, 0x34], [0x57, 0x34], [0x58], [0x59, 0x34, 0x12], [0x5A], [0x5B, 0x34, 0x12],
      [0x5C, 0x34, 0x12], [0x5D, 0x34, 0x12], [0x5E, 0x34, 0x12], [0x5F, 0x34, 0x12]]
    = some [.bvcRel 0x34, .eorIndy 0x34, .jam52, .sreIndy 0x34, .nopZpx54 0x34,
      .eorZpx 0x34, .lsrZpx 0x34, .sreZpx 0x34, .cli, .eorAbsy 0x1234,
      .nop5A, .sreAbsy 0x1234, .nopAbsx5C 0x1234, .eorAbsx 0x1234, .lsrAbsx 0x1234,
      .sreAbsx 0x1234] := by
  rfl

/-- Row 6x of the opcode map (30_encoding.md R263), operand bytes 0x34 and 0x12 (R251). -/
theorem test_decode_6x :
    decodeAll [[0x60], [0x61, 0x34], [0x62], [0x63, 0x34], [0x64, 0x34], [0x65, 0x34],
      [0x66, 0x34], [0x67, 0x34], [0x68], [0x69, 0x34], [0x6A], [0x6B, 0x34],
      [0x6C, 0x34, 0x12], [0x6D, 0x34, 0x12], [0x6E, 0x34, 0x12], [0x6F, 0x34, 0x12]]
    = some [.rts, .adcIndx 0x34, .jam62, .rraIndx 0x34, .nopZp64 0x34,
      .adcZp 0x34, .rorZp 0x34, .rraZp 0x34, .pla, .adcImm 0x34,
      .rorAcc, .arrImm 0x34, .jmpInd 0x1234, .adcAbs 0x1234, .rorAbs 0x1234,
      .rraAbs 0x1234] := by
  rfl

/-- Row 7x of the opcode map (30_encoding.md R263), operand bytes 0x34 and 0x12 (R251). -/
theorem test_decode_7x :
    decodeAll [[0x70, 0x34], [0x71, 0x34], [0x72], [0x73, 0x34], [0x74, 0x34], [0x75, 0x34],
      [0x76, 0x34], [0x77, 0x34], [0x78], [0x79, 0x34, 0x12], [0x7A], [0x7B, 0x34, 0x12],
      [0x7C, 0x34, 0x12], [0x7D, 0x34, 0x12], [0x7E, 0x34, 0x12], [0x7F, 0x34, 0x12]]
    = some [.bvsRel 0x34, .adcIndy 0x34, .jam72, .rraIndy 0x34, .nopZpx74 0x34,
      .adcZpx 0x34, .rorZpx 0x34, .rraZpx 0x34, .sei, .adcAbsy 0x1234,
      .nop7A, .rraAbsy 0x1234, .nopAbsx7C 0x1234, .adcAbsx 0x1234, .rorAbsx 0x1234,
      .rraAbsx 0x1234] := by
  rfl

/-- Row 8x of the opcode map (30_encoding.md R263), operand bytes 0x34 and 0x12 (R251). -/
theorem test_decode_8x :
    decodeAll [[0x80, 0x34], [0x81, 0x34], [0x82, 0x34], [0x83, 0x34], [0x84, 0x34], [0x85, 0x34],
      [0x86, 0x34], [0x87, 0x34], [0x88], [0x89, 0x34], [0x8A], [0x8B, 0x34],
      [0x8C, 0x34, 0x12], [0x8D, 0x34, 0x12], [0x8E, 0x34, 0x12], [0x8F, 0x34, 0x12]]
    = some [.nopImm80 0x34, .staIndx 0x34, .nopImm82 0x34, .saxIndx 0x34, .styZp 0x34,
      .staZp 0x34, .stxZp 0x34, .saxZp 0x34, .dey, .nopImm89 0x34,
      .txa, .aneImm 0x34, .styAbs 0x1234, .staAbs 0x1234, .stxAbs 0x1234,
      .saxAbs 0x1234] := by
  rfl

/-- Row 9x of the opcode map (30_encoding.md R263), operand bytes 0x34 and 0x12 (R251). -/
theorem test_decode_9x :
    decodeAll [[0x90, 0x34], [0x91, 0x34], [0x92], [0x93, 0x34], [0x94, 0x34], [0x95, 0x34],
      [0x96, 0x34], [0x97, 0x34], [0x98], [0x99, 0x34, 0x12], [0x9A], [0x9B, 0x34, 0x12],
      [0x9C, 0x34, 0x12], [0x9D, 0x34, 0x12], [0x9E, 0x34, 0x12], [0x9F, 0x34, 0x12]]
    = some [.bccRel 0x34, .staIndy 0x34, .jam92, .shaIndy 0x34, .styZpx 0x34,
      .staZpx 0x34, .stxZpy 0x34, .saxZpy 0x34, .tya, .staAbsy 0x1234,
      .txs, .tasAbsy 0x1234, .shyAbsx 0x1234, .staAbsx 0x1234, .shxAbsy 0x1234,
      .shaAbsy 0x1234] := by
  rfl

/-- Row Ax of the opcode map (30_encoding.md R263), operand bytes 0x34 and 0x12 (R251). -/
theorem test_decode_Ax :
    decodeAll [[0xA0, 0x34], [0xA1, 0x34], [0xA2, 0x34], [0xA3, 0x34], [0xA4, 0x34], [0xA5, 0x34],
      [0xA6, 0x34], [0xA7, 0x34], [0xA8], [0xA9, 0x34], [0xAA], [0xAB, 0x34],
      [0xAC, 0x34, 0x12], [0xAD, 0x34, 0x12], [0xAE, 0x34, 0x12], [0xAF, 0x34, 0x12]]
    = some [.ldyImm 0x34, .ldaIndx 0x34, .ldxImm 0x34, .laxIndx 0x34, .ldyZp 0x34,
      .ldaZp 0x34, .ldxZp 0x34, .laxZp 0x34, .tay, .ldaImm 0x34,
      .tax, .lxaImm 0x34, .ldyAbs 0x1234, .ldaAbs 0x1234, .ldxAbs 0x1234,
      .laxAbs 0x1234] := by
  rfl

/-- Row Bx of the opcode map (30_encoding.md R263), operand bytes 0x34 and 0x12 (R251). -/
theorem test_decode_Bx :
    decodeAll [[0xB0, 0x34], [0xB1, 0x34], [0xB2], [0xB3, 0x34], [0xB4, 0x34], [0xB5, 0x34],
      [0xB6, 0x34], [0xB7, 0x34], [0xB8], [0xB9, 0x34, 0x12], [0xBA], [0xBB, 0x34, 0x12],
      [0xBC, 0x34, 0x12], [0xBD, 0x34, 0x12], [0xBE, 0x34, 0x12], [0xBF, 0x34, 0x12]]
    = some [.bcsRel 0x34, .ldaIndy 0x34, .jamB2, .laxIndy 0x34, .ldyZpx 0x34,
      .ldaZpx 0x34, .ldxZpy 0x34, .laxZpy 0x34, .clv, .ldaAbsy 0x1234,
      .tsx, .lasAbsy 0x1234, .ldyAbsx 0x1234, .ldaAbsx 0x1234, .ldxAbsy 0x1234,
      .laxAbsy 0x1234] := by
  rfl

/-- Row Cx of the opcode map (30_encoding.md R263), operand bytes 0x34 and 0x12 (R251). -/
theorem test_decode_Cx :
    decodeAll [[0xC0, 0x34], [0xC1, 0x34], [0xC2, 0x34], [0xC3, 0x34], [0xC4, 0x34], [0xC5, 0x34],
      [0xC6, 0x34], [0xC7, 0x34], [0xC8], [0xC9, 0x34], [0xCA], [0xCB, 0x34],
      [0xCC, 0x34, 0x12], [0xCD, 0x34, 0x12], [0xCE, 0x34, 0x12], [0xCF, 0x34, 0x12]]
    = some [.cpyImm 0x34, .cmpIndx 0x34, .nopImmC2 0x34, .dcpIndx 0x34, .cpyZp 0x34,
      .cmpZp 0x34, .decZp 0x34, .dcpZp 0x34, .iny, .cmpImm 0x34,
      .dex, .sbxImm 0x34, .cpyAbs 0x1234, .cmpAbs 0x1234, .decAbs 0x1234,
      .dcpAbs 0x1234] := by
  rfl

/-- Row Dx of the opcode map (30_encoding.md R263), operand bytes 0x34 and 0x12 (R251). -/
theorem test_decode_Dx :
    decodeAll [[0xD0, 0x34], [0xD1, 0x34], [0xD2], [0xD3, 0x34], [0xD4, 0x34], [0xD5, 0x34],
      [0xD6, 0x34], [0xD7, 0x34], [0xD8], [0xD9, 0x34, 0x12], [0xDA], [0xDB, 0x34, 0x12],
      [0xDC, 0x34, 0x12], [0xDD, 0x34, 0x12], [0xDE, 0x34, 0x12], [0xDF, 0x34, 0x12]]
    = some [.bneRel 0x34, .cmpIndy 0x34, .jamD2, .dcpIndy 0x34, .nopZpxD4 0x34,
      .cmpZpx 0x34, .decZpx 0x34, .dcpZpx 0x34, .cld, .cmpAbsy 0x1234,
      .nopDA, .dcpAbsy 0x1234, .nopAbsxDC 0x1234, .cmpAbsx 0x1234, .decAbsx 0x1234,
      .dcpAbsx 0x1234] := by
  rfl

/-- Row Ex of the opcode map (30_encoding.md R263), operand bytes 0x34 and 0x12 (R251). -/
theorem test_decode_Ex :
    decodeAll [[0xE0, 0x34], [0xE1, 0x34], [0xE2, 0x34], [0xE3, 0x34], [0xE4, 0x34], [0xE5, 0x34],
      [0xE6, 0x34], [0xE7, 0x34], [0xE8], [0xE9, 0x34], [0xEA], [0xEB, 0x34],
      [0xEC, 0x34, 0x12], [0xED, 0x34, 0x12], [0xEE, 0x34, 0x12], [0xEF, 0x34, 0x12]]
    = some [.cpxImm 0x34, .sbcIndx 0x34, .nopImmE2 0x34, .iscIndx 0x34, .cpxZp 0x34,
      .sbcZp 0x34, .incZp 0x34, .iscZp 0x34, .inx, .sbcImm 0x34,
      .nop, .usbcImm 0x34, .cpxAbs 0x1234, .sbcAbs 0x1234, .incAbs 0x1234,
      .iscAbs 0x1234] := by
  rfl

/-- Row Fx of the opcode map (30_encoding.md R263), operand bytes 0x34 and 0x12 (R251). -/
theorem test_decode_Fx :
    decodeAll [[0xF0, 0x34], [0xF1, 0x34], [0xF2], [0xF3, 0x34], [0xF4, 0x34], [0xF5, 0x34],
      [0xF6, 0x34], [0xF7, 0x34], [0xF8], [0xF9, 0x34, 0x12], [0xFA], [0xFB, 0x34, 0x12],
      [0xFC, 0x34, 0x12], [0xFD, 0x34, 0x12], [0xFE, 0x34, 0x12], [0xFF, 0x34, 0x12]]
    = some [.beqRel 0x34, .sbcIndy 0x34, .jamF2, .iscIndy 0x34, .nopZpxF4 0x34,
      .sbcZpx 0x34, .incZpx 0x34, .iscZpx 0x34, .sed, .sbcAbsy 0x1234,
      .nopFA, .iscAbsy 0x1234, .nopAbsxFC 0x1234, .sbcAbsx 0x1234, .incAbsx 0x1234,
      .iscAbsx 0x1234] := by
  rfl
/-! ## Single steps: the vectors of 95_test_vectors.md sections 2 to 7 -/

/-- The CPU of 95_test_vectors.md section 0. -/
def base : Cpu := { Cpu.powerOn with s := 0xFD, pc := 0x1000, resetPending := false }

/-- The machine of 95_test_vectors.md section 0, with some bytes of its RAM. -/
def machine (c : Cpu) (cells : List (Nat × Byte)) : State :=
  { State.reset with
    config := { Config.resetMachine with openBusValue := 0xFF, aneMagic := 0xEE, lxaMagic := 0xEE }
    clock := 100
    cpu := c
    bus := { State.reset.bus with
      stores := [⟨0, .ram, 0x10000, cells.foldl (fun m p => Memory.write m p.1 p.2) []⟩] }
    sched := { State.reset.sched with run := .running } }

/-- What a step leaves: A, X, Y, S and the status byte with bit 4 clear; PC; some bytes; the clock. -/
def after (c : Cpu) (cells : List (Nat × Byte)) (as : List Word) :
    Option (List Byte × Word × List Byte × Nat) :=
  match step (machine c cells) with
  | .next t =>
    some ([t.cpu.a, t.cpu.x, t.cpu.y, t.cpu.s, t.cpu.pByte false], t.cpu.pc, as.map t.peek, t.clock)
  | .fault _ => none
  | .refused _ => none

/-- The bus accesses of a step: direction, address, value, and whether the access is a dummy one. -/
def accesses (c : Cpu) (cells : List (Nat × Byte)) : List (Direction × Word × Byte × Bool) :=
  match step (machine c cells) with
  | .next t => t.history.map fun r => (r.dir, r.addr, r.value, decide (r.kind = .dummy))
  | .fault _ => []
  | .refused _ => []

/-- Vector V40-1. -/
theorem test_ldaAbsx :
    after ({ base with x := 0x05 }) [(0x2015, 0x77), (0x1000, 0xBD), (0x1001, 0x10), (0x1002, 0x20)] []
      = some ([0x77, 0x05, 0x00, 0xFD, 0x20], 0x1003, [], 104) := by
  decide +kernel

/-- Vector V40-2. -/
theorem test_ldaAbsx_2 :
    after ({ base with x := 0x20 }) [(0x2110, 0x88), (0x2010, 0x11), (0x1000, 0xBD), (0x1001, 0xF0),
      (0x1002, 0x20)] []
      = some ([0x88, 0x20, 0x00, 0xFD, 0xA0], 0x1003, [], 105) := by
  decide +kernel

/-- Vector V40-3. -/
theorem test_staAbsx :
    after ({ base with a := 0x42, x := 0x05 }) [(0x1000, 0x9D), (0x1001, 0x10), (0x1002, 0x20)] [0x2015]
      = some ([0x42, 0x05, 0x00, 0xFD, 0x20], 0x1003, [0x42], 105) := by
  decide +kernel

/-- Vector V40-4. -/
theorem test_ldaZpx :
    after ({ base with x := 0x20 }) [(0x0010, 0x5A), (0x0110, 0x99), (0x1000, 0xB5), (0x1001, 0xF0)] []
      = some ([0x5A, 0x20, 0x00, 0xFD, 0x20], 0x1002, [], 104) := by
  decide +kernel

/-- Vector V40-5. -/
theorem test_ldaIndx :
    after ({ base with x := 0x01 }) [(0x00FF, 0x34), (0x0000, 0x12), (0x0100, 0x56), (0x1234, 0xAB),
      (0x1000, 0xA1), (0x1001, 0xFE)] []
      = some ([0xAB, 0x01, 0x00, 0xFD, 0xA0], 0x1002, [], 106) := by
  decide +kernel

/-- Vector V40-6. -/
theorem test_ldaIndy :
    after ({ base with y := 0x10 }) [(0x0080, 0xF8), (0x0081, 0x20), (0x2108, 0xCD), (0x2008, 0x01),
      (0x1000, 0xB1), (0x1001, 0x80)] []
      = some ([0xCD, 0x00, 0x10, 0xFD, 0xA0], 0x1002, [], 106) := by
  decide +kernel

/-- Vector V40-7. -/
theorem test_staIndy :
    after ({ base with a := 0x3C, y := 0x01 }) [(0x0080, 0x00), (0x0081, 0x30), (0x1000, 0x91), (0x1001,
      0x80)] [0x3001]
      = some ([0x3C, 0x00, 0x01, 0xFD, 0x20], 0x1002, [0x3C], 106) := by
  decide +kernel

/-- Vector V40-8. -/
theorem test_jmpInd :
    after base [(0x30FF, 0x00), (0x3000, 0x40), (0x3100, 0x50), (0x1000, 0x6C), (0x1001, 0xFF), (0x1002,
      0x30)] []
      = some ([0x00, 0x00, 0x00, 0xFD, 0x20], 0x4000, [], 105) := by
  decide +kernel

/-- Vector V40-9. -/
theorem test_incAbs :
    after base [(0x2000, 0x7F), (0x1000, 0xEE), (0x1001, 0x00), (0x1002, 0x20)] [0x2000]
      = some ([0x00, 0x00, 0x00, 0xFD, 0xA0], 0x1003, [0x80], 106) := by
  decide +kernel

/-- Vector V40-10. -/
theorem test_incAbsx :
    after ({ base with x := 0x01 }) [(0x2100, 0xFF), (0x1000, 0xFE), (0x1001, 0xFF), (0x1002,
      0x20)] [0x2100]
      = some ([0x00, 0x01, 0x00, 0xFD, 0x22], 0x1003, [0x00], 107) := by
  decide +kernel

/-- Vector V41-1. -/
theorem test_ldaImm :
    after ({ base with a := 0x55 }) [(0x1000, 0xA9), (0x1001, 0x00)] []
      = some ([0x00, 0x00, 0x00, 0xFD, 0x22], 0x1002, [], 102) := by
  decide +kernel

/-- Vector V41-2. -/
theorem test_ldaImm_2 :
    after base [(0x1000, 0xA9), (0x1001, 0x80)] []
      = some ([0x80, 0x00, 0x00, 0xFD, 0xA0], 0x1002, [], 102) := by
  decide +kernel

/-- Vector V41-3. -/
theorem test_ldxImm :
    after base [(0x1000, 0xA2), (0x1001, 0x7F)] []
      = some ([0x00, 0x7F, 0x00, 0xFD, 0x20], 0x1002, [], 102) := by
  decide +kernel

/-- Vector V41-4. -/
theorem test_ldxAbsy :
    after ({ base with y := 0x01 }) [(0x2100, 0x00), (0x1000, 0xBE), (0x1001, 0xFF), (0x1002, 0x20)] []
      = some ([0x00, 0x00, 0x01, 0xFD, 0x22], 0x1003, [], 105) := by
  decide +kernel

/-- Vector V41-5. -/
theorem test_tsx :
    after ({ base with s := 0x80 }) [(0x1000, 0xBA)] []
      = some ([0x00, 0x80, 0x00, 0x80, 0xA0], 0x1001, [], 102) := by
  decide +kernel

/-- Vector V41-6. -/
theorem test_txs :
    after ({ base with x := 0x00, flagZ := false, flagN := true }) [(0x1000, 0x9A)] []
      = some ([0x00, 0x00, 0x00, 0x00, 0xA0], 0x1001, [], 102) := by
  decide +kernel

/-- Vector V41-7. -/
theorem test_stxZpy :
    after ({ base with x := 0x33, y := 0x02 }) [(0x1000, 0x96), (0x1001, 0xFF)] [0x0001]
      = some ([0x00, 0x33, 0x02, 0xFD, 0x20], 0x1002, [0x33], 104) := by
  decide +kernel

/-- Vector V41-8. -/
theorem test_styAbs :
    after ({ base with y := 0x9E }) [(0x1000, 0x8C), (0x1001, 0x00), (0x1002, 0x02)] [0x0200]
      = some ([0x00, 0x00, 0x9E, 0xFD, 0x20], 0x1003, [0x9E], 104) := by
  decide +kernel

/-- Vectors V42-1 and V42-2. -/
theorem test_adcImm :
    [(0x50, 0x50), (0xFF, 0x01)].map (fun v => after { base with a := v.1, flagC := false }
        [(0x1000, 0x69), (0x1001, v.2)] [])
      = [some ([0xA0, 0x00, 0x00, 0xFD, 0xE0], 0x1002, [], 102),
        some ([0x00, 0x00, 0x00, 0xFD, 0x23], 0x1002, [], 102)] := by
  decide +kernel

/-- Vectors V42-6, V42-7 and V42-8: decimal, the second with an operand that is not valid. -/
theorem test_adcImm_decimal :
    [(0x99, 0x01, false), (0x0F, 0x01, false), (0x99, 0x99, true)].map (fun v =>
        after { base with a := v.1, flagC := v.2.2, flagD := true } [(0x1000, 0x69), (0x1001, v.2.1)] [])
      = [some ([0x00, 0x00, 0x00, 0xFD, 0xA9], 0x1002, [], 102),
        some ([0x16, 0x00, 0x00, 0xFD, 0x28], 0x1002, [], 102),
        some ([0x99, 0x00, 0x00, 0xFD, 0x69], 0x1002, [], 102)] := by
  decide +kernel

/-- Vectors V42-4 and V42-5. -/
theorem test_sbcImm :
    [(0x00, 0x01), (0x80, 0x7F)].map (fun v => after { base with a := v.1, flagC := true }
        [(0x1000, 0xE9), (0x1001, v.2)] [])
      = [some ([0xFF, 0x00, 0x00, 0xFD, 0xA0], 0x1002, [], 102),
        some ([0x01, 0x00, 0x00, 0xFD, 0x61], 0x1002, [], 102)] := by
  decide +kernel

/-- Vectors V42-9 and V42-10: decimal. -/
theorem test_sbcImm_decimal :
    [(0x00, 0x01, true), (0x10, 0x00, false)].map (fun v =>
        after { base with a := v.1, flagC := v.2.2, flagD := true } [(0x1000, 0xE9), (0x1001, v.2.1)] [])
      = [some ([0x99, 0x00, 0x00, 0xFD, 0xA8], 0x1002, [], 102),
        some ([0x09, 0x00, 0x00, 0xFD, 0x29], 0x1002, [], 102)] := by
  decide +kernel

/-- Vector V42-11. -/
theorem test_cmpImm :
    after ({ base with a := 0x40 }) [(0x1000, 0xC9), (0x1001, 0x41)] []
      = some ([0x40, 0x00, 0x00, 0xFD, 0xA0], 0x1002, [], 102) := by
  decide +kernel

/-- Vector V42-12. -/
theorem test_cpxImm :
    after ({ base with x := 0x00 }) [(0x1000, 0xE0), (0x1001, 0x00)] []
      = some ([0x00, 0x00, 0x00, 0xFD, 0x23], 0x1002, [], 102) := by
  decide +kernel

/-- Vector V42-13. -/
theorem test_bitZp :
    after ({ base with a := 0x01 }) [(0x0010, 0xC0), (0x1000, 0x24), (0x1001, 0x10)] []
      = some ([0x01, 0x00, 0x00, 0xFD, 0xE2], 0x1002, [], 103) := by
  decide +kernel

/-- Vector V42-14. -/
theorem test_andImm :
    after ({ base with a := 0xF0 }) [(0x1000, 0x29), (0x1001, 0x0F)] []
      = some ([0x00, 0x00, 0x00, 0xFD, 0x22], 0x1002, [], 102) := by
  decide +kernel

/-- Vector V42-15. -/
theorem test_eorImm :
    after ({ base with a := 0x0F }) [(0x1000, 0x49), (0x1001, 0xFF)] []
      = some ([0xF0, 0x00, 0x00, 0xFD, 0xA0], 0x1002, [], 102) := by
  decide +kernel

/-- Vector V42-16. -/
theorem test_aslAcc :
    after ({ base with a := 0x81 }) [(0x1000, 0x0A)] []
      = some ([0x02, 0x00, 0x00, 0xFD, 0x21], 0x1001, [], 102) := by
  decide +kernel

/-- Vector V42-17. -/
theorem test_rorAcc :
    after ({ base with a := 0x01, flagC := true }) [(0x1000, 0x6A)] []
      = some ([0x80, 0x00, 0x00, 0xFD, 0xA1], 0x1001, [], 102) := by
  decide +kernel

/-- Vector V42-18. -/
theorem test_rolZp :
    after ({ base with flagC := false }) [(0x0010, 0x80), (0x1000, 0x26), (0x1001, 0x10)] [0x0010]
      = some ([0x00, 0x00, 0x00, 0xFD, 0x23], 0x1002, [0x00], 105) := by
  decide +kernel

/-- Vector V42-19. -/
theorem test_decZp :
    after base [(0x0010, 0x00), (0x1000, 0xC6), (0x1001, 0x10)] [0x0010]
      = some ([0x00, 0x00, 0x00, 0xFD, 0xA0], 0x1002, [0xFF], 105) := by
  decide +kernel

/-- Vector V42-20. -/
theorem test_inx :
    after ({ base with x := 0xFF }) [(0x1000, 0xE8)] []
      = some ([0x00, 0x00, 0x00, 0xFD, 0x22], 0x1001, [], 102) := by
  decide +kernel

/-- Vector V42-21. -/
theorem test_dey :
    after ({ base with y := 0x00 }) [(0x1000, 0x88)] []
      = some ([0x00, 0x00, 0xFF, 0xFD, 0xA0], 0x1001, [], 102) := by
  decide +kernel

/-- Vector V43-1. -/
theorem test_beqRel :
    after ({ base with flagZ := false }) [(0x1000, 0xF0), (0x1001, 0x10)] []
      = some ([0x00, 0x00, 0x00, 0xFD, 0x20], 0x1002, [], 102) := by
  decide +kernel

/-- Vector V43-2. -/
theorem test_beqRel_2 :
    after ({ base with flagZ := true }) [(0x1000, 0xF0), (0x1001, 0x10)] []
      = some ([0x00, 0x00, 0x00, 0xFD, 0x22], 0x1012, [], 103) := by
  decide +kernel

/-- Vector V43-3. -/
theorem test_bneRel :
    after ({ base with flagZ := false }) [(0x1000, 0xD0), (0x1001, 0xFE)] []
      = some ([0x00, 0x00, 0x00, 0xFD, 0x20], 0x1000, [], 103) := by
  decide +kernel

/-- Vector V43-4. -/
theorem test_bplRel :
    after ({ base with flagN := false, pc := 0x10F0 }) [(0x10F0, 0x10), (0x10F1, 0x7F)] []
      = some ([0x00, 0x00, 0x00, 0xFD, 0x20], 0x1171, [], 104) := by
  decide +kernel

/-- Vector V43-5. -/
theorem test_bmiRel :
    after ({ base with flagN := true }) [(0x1000, 0x30), (0x1001, 0x80)] []
      = some ([0x00, 0x00, 0x00, 0xFD, 0xA0], 0x0F82, [], 104) := by
  decide +kernel

/-- Vector V43-6. -/
theorem test_jsrAbs :
    after base [(0x1000, 0x20), (0x1001, 0x00), (0x1002, 0x30)] [0x01FD, 0x01FC]
      = some ([0x00, 0x00, 0x00, 0xFB, 0x20], 0x3000, [0x10, 0x02], 106) := by
  decide +kernel

/-- Vector V43-7. -/
theorem test_rts :
    after ({ base with s := 0xFB }) [(0x01FC, 0x02), (0x01FD, 0x30), (0x1000, 0x60)] []
      = some ([0x00, 0x00, 0x00, 0xFD, 0x20], 0x3003, [], 106) := by
  decide +kernel

/-- Vector V43-8. -/
theorem test_rti :
    after ({ base with s := 0xFA }) [(0x01FB, 0xC3), (0x01FC, 0x34), (0x01FD, 0x12), (0x1000, 0x40)] []
      = some ([0x00, 0x00, 0x00, 0xFD, 0xE3], 0x1234, [], 106) := by
  decide +kernel

/-- Vector V43-9. -/
theorem test_brk :
    after ({ base with flagC := true }) [(0xFFFE, 0x00), (0xFFFF, 0x40), (0x1000, 0x00), (0x1001,
      0xEA)] [0x01FD, 0x01FC, 0x01FB]
      = some ([0x00, 0x00, 0x00, 0xFA, 0x25], 0x4000, [0x10, 0x02, 0x31], 107) := by
  decide +kernel

/-- Vector V43-10. -/
theorem test_jmpAbs :
    after base [(0x1000, 0x4C), (0x1001, 0x00), (0x1002, 0x10)] []
      = some ([0x00, 0x00, 0x00, 0xFD, 0x20], 0x1000, [], 103) := by
  decide +kernel

/-- Vector V44-1. -/
theorem test_php :
    after ({ base with flagN := true, flagC := true }) [(0x1000, 0x08)] [0x01FD]
      = some ([0x00, 0x00, 0x00, 0xFC, 0xA1], 0x1001, [0xB1], 103) := by
  decide +kernel

/-- Vector V44-2. -/
theorem test_plp :
    after ({ base with s := 0xFC }) [(0x01FD, 0x30), (0x1000, 0x28)] []
      = some ([0x00, 0x00, 0x00, 0xFD, 0x20], 0x1001, [], 104) := by
  decide +kernel

/-- Vector V44-3. -/
theorem test_pha :
    after ({ base with a := 0x42, s := 0x00 }) [(0x1000, 0x48)] [0x0100]
      = some ([0x42, 0x00, 0x00, 0xFF, 0x20], 0x1001, [0x42], 103) := by
  decide +kernel

/-- Vector V44-4. -/
theorem test_pla :
    after ({ base with s := 0xFF }) [(0x0100, 0x80), (0x1000, 0x68)] []
      = some ([0x80, 0x00, 0x00, 0x00, 0xA0], 0x1001, [], 104) := by
  decide +kernel

/-- Vector V44-5. -/
theorem test_cli :
    after ({ base with flagI := true }) [(0x1000, 0x58)] []
      = some ([0x00, 0x00, 0x00, 0xFD, 0x20], 0x1001, [], 102) := by
  decide +kernel

/-- Vector V44-6. -/
theorem test_clv :
    after ({ base with flagV := true }) [(0x1000, 0xB8)] []
      = some ([0x00, 0x00, 0x00, 0xFD, 0x20], 0x1001, [], 102) := by
  decide +kernel

/-- Vector V45-1. -/
theorem test_sloZp :
    after ({ base with a := 0x01 }) [(0x0010, 0x81), (0x1000, 0x07), (0x1001, 0x10)] [0x0010]
      = some ([0x03, 0x00, 0x00, 0xFD, 0x21], 0x1002, [0x02], 105) := by
  decide +kernel

/-- Vector V45-2. -/
theorem test_rlaZp :
    after ({ base with a := 0xFF, flagC := true }) [(0x0010, 0x80), (0x1000, 0x27), (0x1001,
      0x10)] [0x0010]
      = some ([0x01, 0x00, 0x00, 0xFD, 0x21], 0x1002, [0x01], 105) := by
  decide +kernel

/-- Vector V45-3. -/
theorem test_sreZp :
    after ({ base with a := 0xFF }) [(0x0010, 0x03), (0x1000, 0x47), (0x1001, 0x10)] [0x0010]
      = some ([0xFE, 0x00, 0x00, 0xFD, 0xA1], 0x1002, [0x01], 105) := by
  decide +kernel

/-- Vector V45-4. -/
theorem test_rraZp :
    after ({ base with a := 0x10, flagC := false }) [(0x0010, 0x03), (0x1000, 0x67), (0x1001,
      0x10)] [0x0010]
      = some ([0x12, 0x00, 0x00, 0xFD, 0x20], 0x1002, [0x01], 105) := by
  decide +kernel

/-- Vector V45-5. -/
theorem test_dcpZp :
    after ({ base with a := 0x05 }) [(0x0010, 0x06), (0x1000, 0xC7), (0x1001, 0x10)] [0x0010]
      = some ([0x05, 0x00, 0x00, 0xFD, 0x23], 0x1002, [0x05], 105) := by
  decide +kernel

/-- Vector V45-6. -/
theorem test_iscZp :
    after ({ base with a := 0x10, flagC := true }) [(0x0010, 0x0F), (0x1000, 0xE7), (0x1001,
      0x10)] [0x0010]
      = some ([0x00, 0x00, 0x00, 0xFD, 0x23], 0x1002, [0x10], 105) := by
  decide +kernel

/-- Vector V45-7. -/
theorem test_saxZp :
    after ({ base with a := 0xF0, x := 0x3C }) [(0x1000, 0x87), (0x1001, 0x10)] [0x0010]
      = some ([0xF0, 0x3C, 0x00, 0xFD, 0x20], 0x1002, [0x30], 103) := by
  decide +kernel

/-- Vector V45-8. -/
theorem test_laxZp :
    after base [(0x0010, 0x80), (0x1000, 0xA7), (0x1001, 0x10)] []
      = some ([0x80, 0x80, 0x00, 0xFD, 0xA0], 0x1002, [], 103) := by
  decide +kernel

/-- Vector V45-9. -/
theorem test_lasAbsy :
    after ({ base with y := 0x00, s := 0xF0 }) [(0x2000, 0x3F), (0x1000, 0xBB), (0x1001, 0x00), (0x1002,
      0x20)] []
      = some ([0x30, 0x30, 0x00, 0x30, 0x20], 0x1003, [], 104) := by
  decide +kernel

/-- Vector V45-10. -/
theorem test_ancImm0B :
    after ({ base with a := 0xFF }) [(0x1000, 0x0B), (0x1001, 0x80)] []
      = some ([0x80, 0x00, 0x00, 0xFD, 0xA1], 0x1002, [], 102) := by
  decide +kernel

/-- Vector V45-11. -/
theorem test_alrImm :
    after ({ base with a := 0xFF }) [(0x1000, 0x4B), (0x1001, 0x03)] []
      = some ([0x01, 0x00, 0x00, 0xFD, 0x21], 0x1002, [], 102) := by
  decide +kernel

/-- Vector V45-12. -/
theorem test_arrImm :
    after ({ base with a := 0xFF, flagC := true }) [(0x1000, 0x6B), (0x1001, 0xFF)] []
      = some ([0xFF, 0x00, 0x00, 0xFD, 0xA1], 0x1002, [], 102) := by
  decide +kernel

/-- Vector V45-13. -/
theorem test_arrImm_2 :
    after ({ base with a := 0xFF, flagC := false, flagD := true }) [(0x1000, 0x6B), (0x1001, 0xFF)] []
      = some ([0xD5, 0x00, 0x00, 0xFD, 0x29], 0x1002, [], 102) := by
  decide +kernel

/-- Vector V45-14. -/
theorem test_sbxImm :
    after ({ base with a := 0xFF, x := 0x0F }) [(0x1000, 0xCB), (0x1001, 0x01)] []
      = some ([0xFF, 0x0E, 0x00, 0xFD, 0x21], 0x1002, [], 102) := by
  decide +kernel

/-- Vector V45-15. -/
theorem test_sbxImm_2 :
    after ({ base with a := 0xFF, x := 0x0F }) [(0x1000, 0xCB), (0x1001, 0x10)] []
      = some ([0xFF, 0xFF, 0x00, 0xFD, 0xA0], 0x1002, [], 102) := by
  decide +kernel

/-- Vector V45-16. -/
theorem test_usbcImm :
    after ({ base with a := 0x00, flagC := true }) [(0x1000, 0xEB), (0x1001, 0x01)] []
      = some ([0xFF, 0x00, 0x00, 0xFD, 0xA0], 0x1002, [], 102) := by
  decide +kernel

/-- Vector V45-17. -/
theorem test_aneImm :
    after ({ base with a := 0x00, x := 0xFF }) [(0x1000, 0x8B), (0x1001, 0xFF)] []
      = some ([0xEE, 0xFF, 0x00, 0xFD, 0xA0], 0x1002, [], 102) := by
  decide +kernel

/-- Vector V45-18. -/
theorem test_lxaImm :
    after ({ base with a := 0x00 }) [(0x1000, 0xAB), (0x1001, 0xFF)] []
      = some ([0xEE, 0xEE, 0x00, 0xFD, 0xA0], 0x1002, [], 102) := by
  decide +kernel

/-- Vector V45-19. -/
theorem test_shaAbsy :
    after ({ base with a := 0xFF, x := 0xFF, y := 0x01 }) [(0x1000, 0x9F), (0x1001, 0x00), (0x1002,
      0x20)] []
      = some ([0xFF, 0xFF, 0x01, 0xFD, 0x20], 0x1003, [], 105) := by
  decide +kernel

/-- Vector V45-20. -/
theorem test_shaAbsy_2 :
    after ({ base with a := 0xFF, x := 0xFF, y := 0x01 }) [(0x1000, 0x9F), (0x1001, 0xFF), (0x1002,
      0x20)] []
      = some ([0xFF, 0xFF, 0x01, 0xFD, 0x20], 0x1003, [], 105) := by
  decide +kernel

/-- Vector V45-21. -/
theorem test_shxAbsy :
    after ({ base with x := 0x01, y := 0x01 }) [(0x1000, 0x9E), (0x1001, 0xFF), (0x1002, 0x20)] []
      = some ([0x00, 0x01, 0x01, 0xFD, 0x20], 0x1003, [], 105) := by
  decide +kernel

/-- Vector V45-22. -/
theorem test_tasAbsy :
    after ({ base with a := 0xF0, x := 0x3F, y := 0x00 }) [(0x1000, 0x9B), (0x1001, 0x00), (0x1002,
      0x20)] []
      = some ([0xF0, 0x3F, 0x00, 0x30, 0x20], 0x1003, [], 105) := by
  decide +kernel

/-- Vector V45-23. -/
theorem test_shyAbsx :
    after ({ base with y := 0xFF, x := 0x00 }) [(0x1000, 0x9C), (0x1001, 0x00), (0x1002, 0x20)] []
      = some ([0x00, 0x00, 0xFF, 0xFD, 0x20], 0x1003, [], 105) := by
  decide +kernel

/-- Vector V45-24. -/
theorem test_nopAbsx1C :
    after ({ base with x := 0x01 }) [(0x1000, 0x1C), (0x1001, 0xFF), (0x1002, 0x20)] []
      = some ([0x00, 0x01, 0x00, 0xFD, 0x20], 0x1003, [], 105) := by
  decide +kernel

/-- Vector V45-25. -/
theorem test_nopImm80 :
    after base [(0x1000, 0x80), (0x1001, 0x44)] []
      = some ([0x00, 0x00, 0x00, 0xFD, 0x20], 0x1002, [], 102) := by
  decide +kernel

/-- Vector V45-26. -/
theorem test_jam02 :
    after base [(0x1000, 0x02)] []
      = some ([0x00, 0x00, 0x00, 0xFD, 0x20], 0x1001, [], 102) := by
  decide +kernel
/-- The bus accesses of V40-3, in order, dummy ones marked. -/
theorem test_accesses_staAbsx :
    accesses ({ base with a := 0x42, x := 0x05 }) [(0x1000, 0x9D), (0x1001, 0x10), (0x1002, 0x20)]
      = [(.read, 0x1000, 0x9D, false), (.read, 0x1001, 0x10, false), (.read, 0x1002, 0x20, false), (.read,
         0x2015, 0x00, true), (.write, 0x2015, 0x42, false)] := by
  decide +kernel

/-- The bus accesses of V40-5, in order, dummy ones marked. -/
theorem test_accesses_ldaIndx :
    accesses ({ base with x := 0x01 }) [(0x00FF, 0x34), (0x0000, 0x12), (0x0100, 0x56), (0x1234, 0xAB),
      (0x1000, 0xA1), (0x1001, 0xFE)]
      = [(.read, 0x1000, 0xA1, false), (.read, 0x1001, 0xFE, false), (.read, 0x00FE, 0x00, true), (.read,
         0x00FF, 0x34, false), (.read, 0x0000, 0x12, false), (.read, 0x1234, 0xAB, false)] := by
  decide +kernel

/-- The bus accesses of V40-6, in order, dummy ones marked. -/
theorem test_accesses_ldaIndy :
    accesses ({ base with y := 0x10 }) [(0x0080, 0xF8), (0x0081, 0x20), (0x2108, 0xCD), (0x2008, 0x01),
      (0x1000, 0xB1), (0x1001, 0x80)]
      = [(.read, 0x1000, 0xB1, false), (.read, 0x1001, 0x80, false), (.read, 0x0080, 0xF8, false), (.read,
         0x0081, 0x20, false), (.read, 0x2008, 0x01, false), (.read, 0x2108, 0xCD, false)] := by
  decide +kernel

/-- The bus accesses of V40-8, in order, dummy ones marked. -/
theorem test_accesses_jmpInd :
    accesses base [(0x30FF, 0x00), (0x3000, 0x40), (0x3100, 0x50), (0x1000, 0x6C), (0x1001, 0xFF),
      (0x1002, 0x30)]
      = [(.read, 0x1000, 0x6C, false), (.read, 0x1001, 0xFF, false), (.read, 0x1002, 0x30, false), (.read,
         0x30FF, 0x00, false), (.read, 0x3000, 0x40, false)] := by
  decide +kernel

/-- The bus accesses of V40-10, in order, dummy ones marked. -/
theorem test_accesses_incAbsx :
    accesses ({ base with x := 0x01 }) [(0x2100, 0xFF), (0x1000, 0xFE), (0x1001, 0xFF), (0x1002, 0x20)]
      = [(.read, 0x1000, 0xFE, false), (.read, 0x1001, 0xFF, false), (.read, 0x1002, 0x20, false), (.read,
         0x2000, 0x00, true), (.read, 0x2100, 0xFF, false), (.write, 0x2100, 0xFF, true), (.write, 0x2100,
         0x00, false)] := by
  decide +kernel
/-! ## Interrupts, reset, timer, stalls and snapshots: sections 8 and 9 -/

/-- 95_test_vectors.md section 8.1's start state: a NOP at 0x1234, IRQ to 0x4000, NMI to 0x5000. -/
def interruptCells : List (Nat × Byte) :=
  [(0x1234, 0xEA), (0xFFFA, 0x00), (0xFFFB, 0x50), (0xFFFE, 0x00), (0xFFFF, 0x40)]

/-- V60-1: an IRQ is taken with I = 0; the stacked status has B = 0. -/
theorem test_irq_entry :
    after { base with pc := 0x1234, irqIn := true, flagC := true } interruptCells [0x01FD, 0x01FC, 0x01FB]
      = some ([0x00, 0x00, 0x00, 0xFA, 0x25], 0x4000, [0x12, 0x34, 0x21], 107) := by
  decide +kernel

/-- V60-2: an NMI is taken with I = 1; D and I are kept. -/
theorem test_nmi_entry :
    after { base with pc := 0x1234, nmiPending := true, flagI := true, flagD := true } interruptCells
        [0x01FD, 0x01FC, 0x01FB]
      = some ([0x00, 0x00, 0x00, 0xFA, 0x2C], 0x5000, [0x12, 0x34, 0x2C], 107) := by
  decide +kernel

/-- V60-4: with I = 1 the IRQ waits and the NOP executes. -/
theorem test_irq_masked :
    after { base with pc := 0x1234, irqIn := true, flagI := true } interruptCells [0x01FD]
      = some ([0x00, 0x00, 0x00, 0xFD, 0x24], 0x1235, [0x00], 102) := by
  decide +kernel

/-- W1's first step: the reset sequence, seven cycles, PC from 0xFFFC. -/
theorem test_reset_sequence :
    after { Cpu.powerOn with resetPending := true } [(0xFFFC, 0x00), (0xFFFD, 0x10)] []
      = some ([0x00, 0x00, 0x00, 0xFD, 0x24], 0x1000, [], 107) := by
  decide +kernel

/-- A jammed step takes one cycle and makes no access (R305). -/
theorem test_jammed_idle :
    after { base with jammed := true } [] [] = some ([0x00, 0x00, 0x00, 0xFD, 0x20], 0x1000, [], 101)
      ∧ accesses { base with jammed := true } [] = [] := by
  decide +kernel

/-- T1: expiry every 3 cycles with a reload in the same cycle, and the IRQ line. -/
theorem test_timer_continuous :
    ((List.range 4).map fun n =>
      let t := refTimerTick n (refTimerWrite (refTimerWrite (refTimerWrite refTimerInit 0 0x03) 1 0x00) 2 0x15)
      (t.counter, t.evt, chipIrq (.refTimer t)))
      = [(3, false, false), (2, false, false), (1, false, false), (3, true, true)] := by
  decide +kernel

/-- T2 and T5: the one-shot stops at 0, and reading STATUS acknowledges. -/
theorem test_timer_one_shot :
    refTimerTick 2 ⟨2, 2, 0x07, false⟩ = ⟨2, 0, 0x06, true⟩
      ∧ refTimerRead ⟨2, 0, 0x06, true⟩ 3 = (0x01, ⟨2, 0, 0x06, false⟩) := by
  decide +kernel

/-- The configuration of 95_test_vectors.md section 9. -/
def snapConfig : MachineConfig :=
  { Config.resetMachine with
    openBusValue := 0xFF
    aneMagic := 0xEE
    lxaMagic := 0xEE
    chips := [.refTimer]
    chipOrder := [0]
    stores := [⟨0, .ram, 4⟩, ⟨1, .rom, 6⟩]
    powerOnMaps := [⟨0x0000, 4, .ram, 0⟩, ⟨0xD000, 4, .ioWindow, 0⟩, ⟨0xFFFA, 6, .rom, 1⟩]
    bankTables := [[⟨0x0000, 4, .ram, 0⟩]]
    imagesPowerOn := [⟨⟨0xFFFA, 6⟩, [0x00, 0x10, 0x00, 0x10, 0x00, 0x10]⟩] }

/-- Its machine right after construction. -/
def snapMachine : State := State.powerOn snapConfig

/-- A step ticks every chip by its cycles, before the lines are resolved: the reset sequence of 7 cycles takes
7 from the counter of each of two started timers (the stopped one keeps its own), and the one that
expires in its last cycle has its NMI latched (R720, R725, R740, R918). -/
theorem test_step_ticks_chips :
    (match step { State.powerOn
          { snapConfig with chips := [.refTimer, .refTimer, .refTimer], chipOrder := [0, 1, 2] } with
        chips := [.refTimer ⟨9, 9, 0x01, false⟩, .refTimer ⟨9, 9, 0x00, false⟩, .refTimer ⟨20, 7, 0x0D, false⟩]
        sched := { snapMachine.sched with run := .running } } with
    | .next t => some (t.chips, t.clock, t.cpu.nmiPending)
    | .fault _ => none
    | .refused _ => none)
      = some ([.refTimer ⟨9, 2, 0x01, false⟩, .refTimer ⟨9, 9, 0x00, false⟩, .refTimer ⟨20, 20, 0x0D, true⟩],
        7, true) := by
  decide +kernel

/-- Of two writes that take effect in one cycle of the renderer, the one with the later latch cycle is seen,
whichever was made first; of equal ones, the one made last (R711). -/
theorem test_pipeline_order :
    enterPipeline ⟨1, 0xBB, 12⟩ (enterPipeline ⟨1, 0xAA, 15⟩ []) = [⟨1, 0xAA, 15⟩]
      ∧ enterPipeline ⟨1, 0xAA, 15⟩ (enterPipeline ⟨1, 0xBB, 12⟩ []) = [⟨1, 0xAA, 15⟩]
      ∧ enterPipeline ⟨1, 0xBB, 12⟩ (enterPipeline ⟨1, 0xAA, 12⟩ []) = [⟨1, 0xBB, 12⟩]
      ∧ enterPipeline ⟨0, 0xCC, 3⟩ [⟨1, 0xAA, 15⟩] = [⟨0, 0xCC, 3⟩, ⟨1, 0xAA, 15⟩] := by
  decide +kernel

/-- The 119 bytes of section 9. -/
def snapBytes : List Byte :=
  [0x01, 0x00, 0x00, 0x00, 0x01, 0x00, 0x08, 0x00, 0x00, 0x00]
  ++ [0x00, 0x00, 0x00, 0x00, 0x00, 0x00, 0x00, 0x00, 0x02, 0x00, 0x3B, 0x00, 0x00, 0x00, 0x03, 0x00]
  ++ [0x00, 0x00, 0x04, 0x00, 0x00, 0x00, 0x00, 0x00, 0x00, 0x00, 0xD0, 0x04, 0x00, 0x00, 0x00, 0x02]
  ++ [0x00, 0x00, 0xFA, 0xFF, 0x06, 0x00, 0x00, 0x00, 0x01, 0x01, 0x00, 0x02, 0x00]
  ++ [0x00, 0x00, 0x00, 0x04, 0x00, 0x00, 0x00, 0x00, 0x00, 0x00, 0x00]
  ++ [0x01, 0x00, 0x01, 0x06, 0x00, 0x00, 0x00, 0x00, 0x10, 0x00, 0x10, 0x00, 0x10]
  ++ [0x00, 0x00, 0x00, 0x00, 0x03, 0x00, 0x08, 0x00, 0x00, 0x00]
  ++ [0x00, 0x00, 0x00, 0x00, 0x00, 0x00, 0x20, 0x01, 0x00, 0x01, 0x06, 0x00, 0x00, 0x00]
  ++ [0xFF, 0xFF, 0xFF, 0xFF, 0x00, 0x00, 0x04, 0x00, 0x04, 0x00, 0x00, 0x00, 0x00, 0x00, 0x00, 0x00]

/-- What a load answers, as an error or whether the state is the given one. -/
def loadAnswer (s : State) (bytes : List Byte) : Option SnapshotError :=
  match load s bytes with
  | .ok _ => none
  | .error e => some e

/-- Section 9: `save` of that machine gives those bytes. -/
theorem test_snapshot_bytes : snapshotBytes snapMachine = snapBytes := by decide +kernel

/-- L1 to L7: what `load` answers to those bytes and to changed ones. -/
theorem test_snapshot_load :
    [snapBytes, snapBytes.set 0 0x02, snapBytes.dropLast, snapBytes ++ [0x00], snapBytes.set 96 0x41,
      (snapBytes.set 35 0xFC).set 36 0xFF, snapBytes.set 4 0x02].map (loadAnswer snapMachine)
      = [none, some .formatVersion, some .truncatedData, some .malformedData, some .malformedData,
        some .malformedData, some .malformedData] := by
  decide +kernel

/-- L8: a running machine with no fault is not loaded. -/
theorem test_snapshot_running : loadAnswer (machine base []) snapBytes = some .invalidState := by
  decide +kernel

/-- A chip order that is not the index order, a store size of 33 bits and an empty frame are refused (R16,
R955, log entry 14); a frame of whole lines and the section 9 machine are not. -/
theorem test_parameters :
    [{ snapConfig with chips := [.refTimer, .refTimer], chipOrder := [1, 0] },
      { snapConfig with stores := [⟨0, .ram, 2 ^ 32⟩, ⟨1, .rom, 6⟩] },
      { snapConfig with chips := [.video 0 63 ⟨[], false, false⟩] },
      { snapConfig with chips := [.video 19656 63 ⟨[], false, false⟩] }, snapConfig].map parametersOk
      = [false, false, false, true, true] := by
  decide +kernel

/-- The output events of a video chip's read handler reach the sink at the cycle of the access (R164). -/
theorem test_video_read_events :
    let s := State.powerOn { snapConfig with chips := [.video 19656 63 ⟨[], false, false⟩] }
    (registerRead 0 2 9 s).2.sink
      = (Config.videoReadEvents 0 ⟨0, 0, 0, [], []⟩ 2 9).map fun e => ⟨0, 9, e⟩ := by
  rfl

/-- Which cartridge events are queued: a sound mapping and a removal are, an empty mapping and one past the
end of its store are not, and none is in Stopped (log entry 23). -/
theorem test_events_queued :
    ([.install ⟨0x8000, 6, .rom, 1⟩, .remove ⟨0x8000, 0x2000⟩, .install ⟨0x8000, 0, .rom, 1⟩,
        .install ⟨0x8000, 7, .rom, 1⟩].map fun e =>
        ((deliverMapEvent e snapMachine).bus.pendingExternal.length,
          (deliverMapEvent e (honourPowerOff snapMachine)).bus.pendingExternal.length))
      = [(1, 0), (1, 0), (0, 0), (0, 0)] := by
  decide +kernel

/-- A due bank switch takes effect at the boundary, a later one waits (R181). -/
theorem test_bank_switch :
    let s := { snapMachine with
      clock := 7, bus := { snapMachine.bus with pendingSwitches := [⟨7, 0⟩, ⟨8, 0⟩] } }
    (boundary s).bus.maps = [⟨0x0000, 4, .ram, 0⟩] ∧ (boundary s).bus.pendingSwitches = [⟨8, 0⟩] := by
  decide +kernel

/-- S2 and S3: at clock 22 the request {18, 5} is active with one cycle left, and {10, 5} has elapsed. -/
theorem test_take_stall :
    takeStall 22 [⟨10, 5, 0⟩, ⟨18, 5, 0⟩] = (some ⟨18, 5, 0⟩, []) ∧ takeStall 22 [⟨10, 5, 0⟩] = (none, []) := by
  decide +kernel

/-- An access of an unmapped address by a validation build faults; the step leaves it recorded, and the next
step answers it (R163, R905). -/
theorem test_validation_fault :
    (match step { snapMachine with
        config := { snapConfig with validateBus := true }
        sched := { snapMachine.sched with run := .running } } with
      | .next t => t.sched.fault
      | .fault _ => none
      | .refused _ => none) = some (.unmappedAddressError .read 0x0100 2) := by
  decide +kernel

/-- A word placed by `withFetchWord` is what the next step runs. -/
theorem test_withFetchWord :
    (match step (State.reset.withFetchWord 16 0x80A9) with
      | .next t => some (t.cpu.a, t.cpu.flagN, t.cpu.pc, t.clock)
      | .fault _ => none
      | .refused _ => none) = some (0x80, true, 0x0002, 2) := by
  decide +kernel

/-! ## Witnesses: for each statement with hypotheses, a state and operands that meet them together -/

/-- The state a result leaves, or the given one. -/
def nextState (r : Result) (s : State) : State :=
  match r with
  | .next t => t
  | .fault _ => s
  | .refused _ => s

/-- Whether a result is a next state. -/
def isNext (r : Result) : Bool :=
  match r with
  | .next _ => true
  | .fault _ => false
  | .refused _ => false

theorem next_of {r : Result} {s : State} (h : isNext r = true) : r = .next (nextState r s) := by
  cases r <;> simp_all [isNext, nextState]

/-- The state a part of a step leaves. -/
def endState (p : M Unit) (s : State) : State :=
  match p s with
  | .ok _ t => t
  | .error _ t => t

/-- Whether a part of a step meets no fault. -/
def isOk (p : M Unit) (s : State) : Bool :=
  match p s with
  | .ok _ _ => true
  | .error _ _ => false

theorem ok_of {p : M Unit} {s : State} (h : isOk p s = true) : p s = .ok () (endState p s) := by
  unfold isOk at h; unfold endState; split at h <;> simp_all

/-- Every address of the test machine is a byte of its RAM, and it is a production machine. -/
theorem machine_target (c : Cpu) (cells : List (Nat × Byte)) (a : Word) :
    (machine c cells).target a = .store .ram 0 a.toNat := by
  have := a.isLt
  simp only [State.target, machine, State.reset, State.powerOn, Config.resetMachine, target, resolve,
    List.find?, Mapping.covers, Mapping.offset, BitVec.toNat_ofNat]
  rw [show (decide (0 % 2 ^ 16 ≤ a.toNat) && decide (a.toNat < 0 % 2 ^ 16 + 65536)) = true from by
    simp; omega]
  simp

theorem machine_plain (c : Cpu) (cells : List (Nat × Byte)) (a : Word) : (machine c cells).plain a := by
  rw [State.plain, machine_target]; rfl

theorem machine_writable (c : Cpu) (cells : List (Nat × Byte)) (a : Word) :
    (machine c cells).writable a := ⟨0, a.toNat, machine_target c cells a, rfl⟩

/-- The hypothesis of LoadsComplete, TransfersComplete, AddSubtractComplete, LogicComplete, ComparesComplete,
FlagsAndNopComplete, UndocumentedNopsComplete and JamsComplete. -/
theorem witness_production : (machine base []).production := rfl

/-- The hypotheses of StoresComplete, IncrementsComplete, ShiftsComplete, JumpsComplete,
SubroutinesComplete, BreakAndReturnComplete, StackComplete, CombinedModifiesComplete,
CombinedLoadsAndStoresComplete, HighStoresComplete and ResetSequenceRuns, with memory that is not empty. -/
theorem witness_canonical :
    (machine base [(0xFFFF, 0x40), (0x0000, 0x12)]).production
      ∧ (machine base [(0xFFFF, 0x40), (0x0000, 0x12)]).canonical := by
  unfold State.production State.canonical; decide +kernel

/-- EncodeInvertsDecode, and both sides of EveryOpcodeDecodes. -/
theorem witness_decodes :
    decode [0x8D, 0xFF, 0xFF] = .ok (.staAbs 0xFFFF, []) ∧ [0xFF].length + 1 < (rowOf 0x8D).mode.length
      ∧ ¬ [0xFF, 0xFF].length + 1 < (rowOf 0x8D).mode.length := by
  refine ⟨rfl, by decide, by decide⟩

/-- A machine about to execute an instruction whose bytes wrap from 0xFFFF to 0x0000 (R173). -/
def fetching : State := machine { base with pc := 0xFFFE } [(0xFFFE, 0x8D), (0xFFFF, 0x10), (0x0000, 0x20)]

/-- StepRunsDecodedInstruction. -/
theorem witness_executes : Executes fetching (.staAbs 0x2010) where
  noFault := rfl
  before := rfl
  running := by decide +kernel
  noStall := by decide +kernel
  kind := by decide +kernel
  plain := by unfold State.plain; decide +kernel
  decodes := ⟨[], by rfl⟩

/-- Page zero of the machines of the tests is in stores, at the boundary too. -/
theorem witness_page_zero (a : Word) (_ : hiByte a = 0#8) : (boundary fetching).plain a :=
  machine_plain base [] a

/-- InstructionAdvancesClock: its instruction, and the end of a round at the last clock with room and at the
first without. -/
theorem witness_advances :
    Executes fetching (.staAbs 0x2010) ∧ fetching.production ∧ (boundary fetching).canonical
      ∧ 4 = Instr.baseCycles (.staAbs 0x2010) + extraCycles (.staAbs 0x2010) fetching.atExecution
      ∧ fetching.clock + 4 < 2 ^ 64
      ∧ fetching.config.chipOrder = List.range fetching.config.chips.length
      ∧ (∀ k ∈ [7, 8], fetching.sched.fault = none
        ∧ (({ fetching with clock := 2 ^ 64 - 8, cycle := k } : State).clock + k < 2 ^ 64 ↔ k = 7)) :=
  ⟨witness_executes, rfl, by unfold State.canonical; decide +kernel, by decide +kernel, by decide +kernel,
    by decide +kernel, by decide +kernel⟩

/-- CycleCounts, with a page-crossing read of an instruction that has the penalty. -/
theorem witness_cycles :
    ∃ t, exec (.ldaAbsx 0x20FF) (machine { base with x := 0x01 } []) = .next t
      ∧ (machine { base with x := 0x01 } []).production ∧ (machine { base with x := 0x01 } []).canonical
      ∧ extraCycles (.ldaAbsx 0x20FF) (machine { base with x := 0x01 } []) = 1 :=
  ⟨_, next_of (s := machine base []) (by decide +kernel), rfl,
    by unfold State.canonical; decide +kernel, by decide +kernel⟩

/-- The five clauses of StepStartSelection; the last with an IRQ asserted and masked, and with none. -/
theorem witness_selection :
    stepKind { base with resetPending := true, jammed := true } = .resetSequence
      ∧ stepKind { base with jammed := true, nmiPending := true } = .jammedIdle
      ∧ stepKind { base with nmiPending := true, irqIn := true, flagI := true } = .interrupt .nmi
      ∧ stepKind { base with irqIn := true } = .interrupt .irq
      ∧ stepKind { base with irqIn := true, flagI := true } = .instruction
      ∧ stepKind base = .instruction := by
  decide +kernel

/-- EffectiveAddresses and ReadOperands: the pointer clauses with the pointer at 0x00FF and 0x0000, and the
indexed ones with and without a page crossing. -/
theorem witness_pointers :
    let s := machine { base with x := 0x01, y := 0x01 } [(0x00FF, 0xFF), (0x0000, 0x20)]
    s.production ∧ (0xFF#8 = 0xFE#8 + s.cpu.x) ∧ s.plain (zext16 0xFF) ∧ s.plain (zext16 (0xFF + 1))
      ∧ mkWord (s.peek (zext16 (0xFF + 1))) (s.peek (zext16 0xFF)) = 0x20FF
      ∧ crosses 0xFF s.cpu.y = true ∧ crosses 0xFE s.cpu.y = false
      ∧ s.plain (mkWord 0x20 (0xFF + s.cpu.y)) ∧ s.plain (0x20FF + zext16 s.cpu.y) :=
  ⟨rfl, by decide, machine_plain _ _ _, machine_plain _ _ _, by decide +kernel, by decide +kernel,
    by decide +kernel, machine_plain _ _ _, machine_plain _ _ _⟩

/-- BranchesComplete: taken within the page, taken across it (wrapping past 0xFFFF), and not taken. -/
theorem witness_branches :
    (let s := machine { base with pc := 0x1002, flagZ := true } []
     s.production ∧ s.canonical ∧ s.cpu.flagZ = true
      ∧ hiByte (s.cpu.pc + (0x7F#8).signExtend 16) = hiByte s.cpu.pc)
    ∧ (let s := machine { base with pc := 0xFFFF, flagZ := true } []
       s.production ∧ s.canonical ∧ s.cpu.flagZ = true
        ∧ hiByte (s.cpu.pc + (0x01#8).signExtend 16) ≠ hiByte s.cpu.pc)
    ∧ (machine base []).cpu.flagZ = false := by
  unfold State.production State.canonical; decide +kernel

/-- The two clauses of ImmediateCombinationsComplete on ARR. -/
theorem witness_arr :
    (machine base []).production ∧ (machine base []).cpu.flagD = false
      ∧ (machine { base with flagD := true } []).production
      ∧ (machine { base with flagD := true } []).cpu.flagD = true :=
  ⟨rfl, rfl, rfl, rfl⟩

/-- DecimalArithmetic at its largest operands, at the corrections of both digits for valid and for other
operands, and BinaryArithmetic. -/
theorem witness_decimal :
    let c := { base with flagD := true, flagC := true, a := 0x99 }
    c.flagD = true ∧ (c.a.toNat / 16 ≤ 9 ∧ c.a.toNat % 16 ≤ 9) ∧ ((0x99 : Byte).toNat / 16 ≤ 9)
      ∧ (c.addCore 0x99).a = 0x99 ∧ (c.subCore 0x99).a = 0x00 ∧ base.flagD = false
      ∧ ({ c with a := 0x0F, flagC := false }.addCore 0x0F).a = 0x14
      ∧ ({ c with a := 0x00 }.subCore 0x01).a = 0x99 := by
  decide +kernel

/-- InterruptEntryTaken, of both kinds. -/
theorem witness_entry :
    let s := machine { base with pc := 0x1234, s := 0x00 } interruptCells
    s.production ∧ s.canonical ∧ isOk (interruptEntry .irq) s = true
      ∧ isOk (interruptEntry .nmi) s = true := by
  unfold State.production State.canonical; decide +kernel

/-- Where entry and call are taken for the next two witnesses: the stack wraps from 0x0100 to 0x01FF. -/
def wrapped : State := machine { base with pc := 0x1234, s := 0x01 } interruptCells

/-- The bytes the stack pointer of that state walks over are distinct. -/
theorem wrapped_distinct : ∀ j < 3, ∀ k < 3,
    wrapped.target (stackAddr (wrapped.cpu.s - BitVec.ofNat 8 j))
      = wrapped.target (stackAddr (wrapped.cpu.s - BitVec.ofNat 8 k)) → j = k := by
  decide +kernel

/-- EntryThenReturnResumes, with the handler an empty one. -/
theorem witness_resumes :
    ∃ t, interruptEntry .irq wrapped = .ok () t ∧ wrapped.production ∧ wrapped.canonical
      ∧ (∀ k < 3, wrapped.writable (stackAddr (wrapped.cpu.s - BitVec.ofNat 8 k)))
      ∧ t.production ∧ t.canonical :=
  ⟨_, ok_of (by decide +kernel), rfl, by unfold State.canonical; decide +kernel,
    fun _ _ => machine_writable _ _ _, by unfold State.production; decide +kernel,
    by unfold State.canonical; decide +kernel⟩

/-- CallThenReturnResumes, with an empty subroutine. -/
theorem witness_call :
    ∃ t, exec (.jsrAbs 0x4000) wrapped = .next t ∧ wrapped.production ∧ wrapped.canonical
      ∧ (∀ k < 2, wrapped.writable (stackAddr (wrapped.cpu.s - BitVec.ofNat 8 k)))
      ∧ wrapped.target (stackAddr wrapped.cpu.s) ≠ wrapped.target (stackAddr (wrapped.cpu.s - 1#8))
      ∧ t.production ∧ t.canonical :=
  ⟨_, next_of (s := wrapped) (by decide +kernel), rfl, by unfold State.canonical; decide +kernel,
    fun _ _ => machine_writable _ _ _, by decide +kernel, by unfold State.production; decide +kernel,
    by unfold State.canonical; decide +kernel⟩

/-- HostResetRestartsCpu: a jammed machine with a reset requested, at the last clock the statement allows. -/
theorem witness_host_reset :
    let s := { machine { base with jammed := true } interruptCells with
      clock := 2 ^ 64 - 8
      sched := { State.reset.sched with run := .running, hostReq := ⟨false, true, false⟩ } }
    s.production ∧ s.canonical ∧ s.sched.fault = none ∧ s.sched.run = .running
      ∧ s.sched.hostReq = ⟨false, true, false⟩ ∧ s.config.imagesReset = [] ∧ s.clock + 7 < 2 ^ 64
      ∧ targetStored (target s.config.powerOnMaps 0xFFFC#16) = true
      ∧ targetStored (target s.config.powerOnMaps 0xFFFD#16) = true := by
  unfold State.production State.canonical; decide +kernel

/-- JammedUntilReset, both clauses, the second at the last clock it allows. -/
theorem witness_jammed :
    let s := { machine { base with jammed := true } [] with clock := 2 ^ 64 - 2 }
    s.production ∧ s.sched.fault = none ∧ s.cpu.jammed = true ∧ (boundary s).cpu.resetPending = false
      ∧ s.sched.run = .running ∧ (boundary s).sched.run = .running
      ∧ (takeStall s.clock (boundary s).sched.stalls).1 = none ∧ s.clock + 1 < 2 ^ 64
      ∧ s.config.chipOrder = List.range s.config.chips.length ∧ isNext (step s) = true := by
  unfold State.production; decide +kernel

/-- The section 9 machine, running. -/
def snapRunning : State := { snapMachine with sched := { snapMachine.sched with run := .running } }

/-- WriteThenReadBack: the last byte of the RAM store, and a ROM byte. -/
theorem witness_write :
    snapMachine.production ∧ snapMachine.canonical
      ∧ snapMachine.target 0x0003 = .store .ram 0 3 ∧ snapMachine.hasStore 0 = true
      ∧ snapMachine.target 0xFFFF = .store .rom 1 5 ∧ isOk (memWrite .data 0x0003 0x55) snapMachine = true
      ∧ isOk (memWrite .data 0xFFFF 0x55) snapMachine = true := by
  unfold State.production State.canonical; decide +kernel

/-- WriteThenReadBack: the first and the last offset of a window of a reference timer, and of a window of an
audio chip. -/
theorem witness_window :
    let audio := State.powerOn { snapConfig with chips := [.audio ⟨[0x00], false, false⟩] }
    mapsDisjoint snapMachine.bus.maps = true ∧ (⟨0xD000, 4, .ioWindow, 0⟩ : Mapping) ∈ snapMachine.bus.maps
      ∧ (⟨0xD000, 4, .ioWindow, 0⟩ : Mapping).covers 0xD000 = true
      ∧ (⟨0xD000, 4, .ioWindow, 0⟩ : Mapping).covers 0xD003 = true
      ∧ snapMachine.chips[0]? = some (.refTimer refTimerInit)
      ∧ isOk (dummyRead 0xD003) snapMachine = true ∧ isOk (memWrite .data 0xD000 0x55) snapMachine = true
      ∧ mapsDisjoint audio.bus.maps = true ∧ (⟨0xD000, 4, .ioWindow, 0⟩ : Mapping) ∈ audio.bus.maps
      ∧ audio.chips[0]? = some (.audio ⟨[0x00], false, false⟩) := by
  decide +kernel

/-- FaultStopsMachine: a recorded fault, and the last clock with one cycle more. -/
theorem witness_fault :
    ((machine base []).raise (.clockOverflow 5)).sched.fault = some (.clockOverflow 5)
      ∧ 2 ^ 64 ≤ ({ machine base [] with clock := 2 ^ 64 - 1 } : State).clock + 1 := by
  decide +kernel

/-- ProductionNeverFaultsOnBus, and its clause on a validation build. -/
theorem witness_unmapped :
    snapRunning.production ∧ snapRunning.canonical ∧ snapRunning.sched.fault = none
      ∧ ({ snapMachine with config := { snapConfig with validateBus := true } } : State).config.validateBus
        = true
      ∧ snapMachine.target 0x0004 = .unmapped := by
  unfold State.production State.canonical; decide +kernel

/-- StepKeepsTable, and RomBytesKept for the ROM store 1. -/
theorem witness_step :
    snapRunning.sched.fault = none ∧ snapRunning.sched.run = .running ∧ isNext (step snapRunning) = true
      ∧ ∀ m ∈ (boundary snapRunning).bus.maps, m.kind = .ram → m.owner ≠ 1 := by
  decide +kernel

/-- The section 9 machine has the invariant. -/
theorem snapMachine_inv : snapMachine.Inv := by
  refine ⟨⟨?_, ?_, ?_, ?_⟩, ?_, ?_, ?_, ?_, ?_, ?_, ?_, ?_, ?_, ?_, fun i c hc => ?_⟩
  case refine_5 => unfold State.canonical; decide +kernel
  case refine_15 =>
    match i with
    | 0 =>
      have h : c = .refTimer refTimerInit := by
        simpa [snapMachine, State.powerOn, snapConfig, chipPowerOn] using hc.symm
      subst h; decide +kernel
    | i + 1 => simp [snapMachine, State.powerOn, snapConfig] at hc
  all_goals decide +kernel

/-- StepKeepsInvariant: a running machine with a timer, a ROM and an unmapped hole has the invariant, and it
steps. -/
theorem witness_invariant : snapRunning.Inv ∧ isNext (step snapRunning) = true := by
  obtain ⟨a, b, c, d, e, f, g, h, i, j, k, l⟩ := snapMachine_inv
  exact ⟨⟨a, b, c, d, e, f, g, h, i, j, k, l⟩, by decide +kernel⟩

/-- PowerOnValues: a configuration that constructs, with images and without. -/
theorem witness_construct :
    construct snapConfig = .ok snapMachine ∧ construct Config.resetMachine = .ok State.reset := by
  have h1 : checkConfig snapConfig snapConfig.powerOnMaps = none := by decide +kernel
  have h2 : checkConfig Config.resetMachine Config.resetMachine.powerOnMaps = none := by decide +kernel
  exact ⟨by rw [construct, h1]; rfl, by rw [construct, h2]; rfl⟩

/-- HostCallsByState: its four run states, both answers of the check from Idle, and a recorded fault. -/
theorem witness_host_calls :
    (∀ r ∈ [RunState.idle, .running, .paused, .stopped],
        ({ snapMachine with sched := { snapMachine.sched with run := r } } : State).sched.fault = none)
      ∧ checkConfig snapConfig snapConfig.powerOnMaps = none
      ∧ checkConfig snapConfig [] = some .missingRequiredRange
      ∧ (snapMachine.raise (.clockOverflow 0)).sched.fault ≠ none := by
  decide +kernel

/-- TakeStallTakesFirstActive: windows at their last cycle, elapsed, at their first cycle, and future. -/
theorem witness_take_stall :
    (takeStall 22 [⟨30, 4, 0⟩, ⟨18, 5, 0⟩, ⟨22, 1, 0⟩]).1 = some ⟨18, 5, 0⟩
      ∧ (takeStall 22 [⟨23, 1, 0⟩, ⟨17, 5, 0⟩]).1 = none := by
  decide +kernel

/-- StallRoundSparesCpu. -/
theorem witness_stall_round :
    let s := { snapRunning with sched := { snapRunning.sched with stalls := [⟨0, 5, 0⟩] } }
    s.production ∧ (boundary s).canonical ∧ s.sched.fault = none ∧ s.sched.run = .running
      ∧ (boundary s).sched.run = .running
      ∧ (takeStall s.clock (boundary s).sched.stalls).1 = some ⟨0, 5, 0⟩
      ∧ s.config.chipOrder = List.range s.config.chips.length := by
  unfold State.production State.canonical; decide +kernel

/-- BankSwitchesApply: no switch due, and a due one followed by a future one. -/
theorem witness_bank_switch :
    let s := { snapMachine with
      clock := 7, bus := { snapMachine.bus with pendingSwitches := [⟨7, 0⟩, ⟨8, 0⟩] } }
    s.sched.hostReq = HostReq.clear ∧ s.bus.pendingExternal = [] ∧ (7 ≤ s.clock)
      ∧ (∀ x ∈ [(⟨8, 0⟩ : BankSwitch)], s.clock < x.effectiveCycle)
      ∧ s.config.bankTables[0]? = some [⟨0x0000, 4, .ram, 0⟩]
      ∧ ∀ b ∈ snapMachine.bus.pendingSwitches, snapMachine.clock < b.effectiveCycle := by
  decide +kernel

/-- MappingEventsKeepDisjoint: a disjoint table, and an address of a new range at its last place. -/
theorem witness_mapping :
    mapsDisjoint snapConfig.powerOnMaps = true
      ∧ Mapping.covers ⟨0x8000, 0x2000, .rom, 1⟩ 0x9FFF = true := by
  decide +kernel

/-- TimerExpiresEachPeriod: the shortest and the longest period, stopped and started, both modes. -/
theorem witness_timer :
    (65536 = if (0#16) = 0#16 then 65536 else (0#16 : Word).toNat)
      ∧ (1 = if (1#16) = 0#16 then 65536 else (1#16 : Word).toNat)
      ∧ timerStart ⟨3, 1, 0x00, false⟩ = false ∧ timerStart ⟨3, 1, 0x01, false⟩ = true
      ∧ timerOneShot ⟨3, 1, 0x01, false⟩ = false ∧ timerOneShot ⟨3, 1, 0x03, false⟩ = true
      ∧ snapMachine.chips[0]? = some (.refTimer refTimerInit) := by
  decide +kernel

/-- RasterCountsFrames at the last phase of a frame, and BitCellsLoseNoFraction at the largest remainder. -/
theorem witness_raster :
    let v : VideoState := ⟨19655, 2 ^ 64 - 1, [], [], []⟩
    v.phase < 19656 ∧ v.frames < 2 ^ 64 ∧ (rasterAdvance 19656 v).phase = 0 ∧ 6 < 7
      ∧ diskCells 3 7 6 = 1 := by
  decide +kernel

/-- The clauses of RasterCountsFrames and BitCellsLoseNoFraction about ticks: a machine with a video chip at
the last cycle of a frame, a disk controller with the largest remainder, and an I/O chip whose counter
expires in the next cycle. -/
theorem witness_kinds :
    let core : ChipCore := ⟨[], false, false⟩
    let s := { State.powerOn
        { snapConfig with chips := [.video 19656 63 core, .disk 3 7 core, .io [] core], chipOrder := [0, 1, 2] } with
      chips := [.video ⟨19655, 0, [], [], []⟩ core, .disk 6 core, .io [⟨1, 5, true, false, false⟩] core] }
    19656 = specFrameCycles (specOf s.config 0) ∧ 6 < (specBitcell (specOf s.config 1)).2
      ∧ s.chips[0]? = some (.video ⟨19655, 0, [], [], []⟩ core) ∧ s.chips[1]? = some (.disk 6 core)
      ∧ s.chips[2]? = some (.io [⟨1, 5, true, false, false⟩] core)
      ∧ countersExpire 2 false [⟨1, 5, true, false, false⟩] = true := by
  decide +kernel

/-- SnapshotSize and SnapshotRoundTrip: the section 9 machine is one its snapshot restores, and it saves. -/
theorem witness_snapshot :
    snapMachine.Inv ∧ snapMachine.FitsSnapshot ∧ save snapMachine = .ok (snapshotBytes snapMachine)
      ∧ snapMachine.sched.run ≠ .stopped ∧ snapMachine.config.chipOrder = List.range snapMachine.chips.length := by
  refine ⟨snapMachine_inv, ⟨by decide +kernel, by decide +kernel, by decide +kernel, by decide +kernel,
    by decide +kernel, fun i c hc => ?_⟩, rfl, by decide, by decide +kernel⟩
  match i with
  | 0 =>
    have h : c = .refTimer refTimerInit := by
      simpa [snapMachine, State.powerOn, snapConfig, chipPowerOn] using hc.symm
    subst h; decide +kernel
  | i + 1 => simp [snapMachine, State.powerOn, snapConfig] at hc

end Sys2Proof.Tests
end

section
/-! What the named updates of the state keep, every step keeps: the chips' handlers and tick cycles are
updates of one chip and reactions of one chip, said once for each of them, and the rest of an iteration is
accesses to stores, the arbiter, the clock, and changes of the CPU and of the records. -/

namespace Sys2Proof.Machine

/-! ## Chips that stay in range -/

/-- A chip that may take the place of `old`: in range wherever `old` is and the specification is a checked
one. -/
def KeepsRange (spec : ChipSpec) (old new : Chip) : Prop :=
  SpecOk spec → chipInRange spec old = true → chipInRange spec new = true

/-- A chip may take its own place. -/
theorem KeepsRange.refl (spec : ChipSpec) (c : Chip) : KeepsRange spec c c := fun _ h => h

/-- An I/O chip's timers are plain counts, so that only its kind is asked of it (R712). -/
theorem keepsRange_io (spec : ChipSpec) (timers timers' : List DownCounter) (core core' : ChipCore) :
    KeepsRange spec (.io timers core) (.io timers' core') := by
  intro _ h
  cases spec <;> exact h

/-- A register read leaves `ctrl` (R916). -/
theorem keepsRange_refTimerRead (spec : ChipSpec) (t : RefTimer) (off : Nat) :
    KeepsRange spec (.refTimer t) (.refTimer (refTimerRead t off).2) := by
  intro _ h
  have ctrl : (refTimerRead t off).2.ctrl = t.ctrl := by
    unfold refTimerRead; split <;> rfl
  cases spec with
  | refTimer => rwa [chipInRange, ctrl]
  | video _ _ _ | io _ _ | disk _ _ _ | audio _ | other _ => exact h

/-- A register write keeps the four bits of `ctrl` (R916). -/
theorem keepsRange_refTimerWrite (spec : ChipSpec) (t : RefTimer) (off : Nat) (v : Byte) :
    KeepsRange spec (.refTimer t) (.refTimer (refTimerWrite t off v)) := by
  intro _ h
  cases spec with
  | refTimer =>
    have masked : v &&& 0x0F#8 &&& 0xF0#8 = 0#8 := by rw [BitVec.and_assoc]; exact BitVec.and_zero
    unfold refTimerWrite
    split
    · exact h
    · exact h
    · exact beq_iff_eq.2 masked
    · exact h
  | video _ _ _ | io _ _ | disk _ _ _ | audio _ | other _ => exact h

/-- A cycle of the timer clears no more than START (R918). -/
theorem keepsRange_refTimerCycle (spec : ChipSpec) (t : RefTimer) :
    KeepsRange spec (.refTimer t) (.refTimer (refTimerCycle t)) := by
  intro _ h
  cases spec with
  | refTimer =>
    have stopped : t.ctrl &&& 0xFE#8 &&& 0xF0#8 = 0#8 := by
      rw [BitVec.and_assoc]; exact beq_iff_eq.1 h
    unfold refTimerCycle
    split
    · dsimp only
      split
      · split
        · exact beq_iff_eq.2 stopped
        · exact h
      · exact h
    · exact h
  | video _ _ _ | io _ _ | disk _ _ _ | audio _ | other _ => exact h

/-- Latching leaves the raster's phase and frames (R711). -/
theorem keepsRange_rasterLatch (spec : ChipSpec) (i cycle : Nat) (v : VideoState) (core : ChipCore) :
    KeepsRange spec (.video v core) (.video (rasterLatch i cycle v) core) := by
  intro _ h
  cases spec <;> exact h

/-- The raster wraps after `FRAME_CYCLES - 1`, and its frames after `2^64 - 1` (R710). -/
theorem rasterAdvance_inRange {frame : Nat} {v : VideoState} (phase : v.phase < frame)
    (frames : v.frames < 2 ^ 64) :
    (rasterAdvance frame v).phase < frame ∧ (rasterAdvance frame v).frames < 2 ^ 64 := by
  unfold rasterAdvance
  split
  · exact ⟨‹_›, frames⟩
  · exact ⟨Nat.zero_lt_of_lt phase, Nat.mod_lt _ (by decide)⟩

/-- The raster's advance leaves a video chip in range (R710). -/
theorem keepsRange_rasterAdvance (spec : ChipSpec) (v : VideoState) (core : ChipCore) :
    KeepsRange spec (.video v core) (.video (rasterAdvance (specFrameCycles spec) v) core) := by
  intro _ h
  cases spec with
  | video frame line core' =>
    simp only [chipInRange, Bool.and_eq_true, decide_eq_true_eq] at h ⊢
    exact rasterAdvance_inRange h.1 h.2
  | refTimer | io _ _ | disk _ _ _ | audio _ | other _ => exact h

/-- The remainder a cycle leaves is below `BITCELL_DEN` (R713). -/
theorem keepsRange_diskRemainder (spec : ChipSpec) (r : Nat) (core : ChipCore) :
    KeepsRange spec (.disk r core)
      (.disk (diskRemainder (specBitcell spec).1 (specBitcell spec).2 r) core) := by
  intro hs h
  cases spec with
  | disk num den core' => exact decide_eq_true (Nat.mod_lt _ hs.2)
  | refTimer | video _ _ _ | io _ _ | audio _ | other _ => exact h

/-! ## The updates an iteration is made of -/

/-- A property that the named updates of the state keep: it reads no more than the configuration, the bus,
the clock, the chips and the stall queue, and survives a store to a byte of RAM that an address selects, a
chip replaced by one in range, a chip's reaction, the arbiter's start of a round, and the clock's advance. -/
structure UpdateClosed (I : State → Prop) : Prop where
  same : ∀ s t : State, t.config = s.config → t.bus = s.bus → t.clock = s.clock → t.chips = s.chips →
    t.sched.stalls = s.sched.stalls → I s → I t
  store : ∀ (s : State) a id off v, s.target a = .store .ram id off → I s → I (s.storeWrite id off v)
  setChip : ∀ (s : State) i old new, s.chips[i]? = some old → KeepsRange (specOf s.config i) old new →
    I s → I (s.setChip i new)
  react : ∀ (s : State) i base old new r, s.chips[i]? = some old →
    KeepsRange (specOf s.config i) old new → I s → I (s.react i base new r)
  start : ∀ s, I s → I (startRound s)
  advance : ∀ (s : State) n, s.clock + n < 2 ^ 64 → I s → I { s with clock := s.clock + n }

section
variable {I : State → Prop} (hI : UpdateClosed I)
include hI

/-! ## Register handlers -/

theorem UpdateClosed.registerRead {s : State} (i off t : Nat) (h : I s) :
    I (Machine.registerRead i off t s).2 := by
  unfold Machine.registerRead
  split
  · exact h
  · exact hI.setChip s i _ _ ‹_› (keepsRange_refTimerRead _ _ off) h
  · exact hI.react s i t _ _ _ ‹_› (fun hs hc => chipInRange_setCounters hs _ hc) h

theorem UpdateClosed.registerWrite {s : State} (i off t : Nat) (v : Byte) (h : I s) :
    I (Machine.registerWrite i off t v s) := by
  unfold Machine.registerWrite
  split
  · exact h
  · exact hI.setChip s i _ _ ‹_› (keepsRange_refTimerWrite _ _ off v) h
  · refine hI.react s i t _ _ _ ‹_› (fun hs hc => chipInRange_setCounters hs _ ?_) h
    rwa [chipInRange_recordLatch]

/-! ## Tick cycles -/

theorem UpdateClosed.timersCount {s : State} (i : Nat) (h : I s) : I (Machine.timersCount i s) := by
  unfold Machine.timersCount
  split
  · exact hI.setChip s i _ _ ‹_› (keepsRange_io _ _ _ _ _) h
  · exact h

theorem UpdateClosed.timersAssert {s : State} (i : Nat) (irq nmi : Bool) (h : I s) :
    I (Machine.timersAssert i irq nmi s) := by
  unfold Machine.timersAssert
  split
  · exact hI.setChip s i _ _ ‹_› (keepsRange_io _ _ _ _ _) h
  · exact h

theorem UpdateClosed.videoEnter {s : State} (i cycle : Nat) (h : I s) :
    I (Machine.videoEnter i cycle s) := by
  unfold Machine.videoEnter
  split
  · exact hI.setChip s i _ _ ‹_› (keepsRange_rasterLatch _ i cycle _ _) h
  · exact h

theorem UpdateClosed.videoLeave {s : State} (i : Nat) (h : I s) : I (Machine.videoLeave i s) := by
  unfold Machine.videoLeave
  split
  · exact hI.setChip s i _ _ ‹_› (keepsRange_rasterAdvance _ _ _) h
  · exact h

theorem UpdateClosed.chipReact {s : State} (i cycle : Nat) (granted : Bool) (peeked : List Byte)
    (got : Option Byte) (h : I s) : I (Machine.chipReact i cycle granted peeked got s) := by
  unfold Machine.chipReact
  split
  · exact h
  · exact hI.react s i cycle _ _ _ ‹_› (fun _ hc => chipInRange_chipTick hc) h

theorem UpdateClosed.runDiskCells {s : State} (i cycle n : Nat) (h : I s) :
    I (Machine.runDiskCells i cycle n s) := by
  induction n generalizing s with
  | zero => exact h
  | succ n ih =>
    unfold Machine.runDiskCells
    split
    · exact ih (hI.react s i cycle _ _ _ ‹_› (KeepsRange.refl _ _) h)
    · exact h

theorem UpdateClosed.diskCycle {s : State} (i cycle : Nat) (h : I s) :
    I (Machine.diskCycle i cycle s) := by
  unfold Machine.diskCycle
  split
  · exact hI.runDiskCells i cycle _ (hI.setChip s i _ _ ‹_› (keepsRange_diskRemainder _ _ _) h)
  · exact h

/-! ## The iteration -/

/-- What the named updates keep, every part of an iteration keeps. -/
theorem UpdateClosed.stepClosed : StepClosed I where
  record s _ := hI.same s _ rfl rfl rfl rfl rfl
  handlerRead _ i off t := hI.registerRead i off t
  handlerWrite _ i off t v := hI.registerWrite i off t v
  store := hI.store
  fault s _ _ _ _ _ := hI.same s _ rfl rfl rfl rfl rfl
  cpu s _ := hI.same s _ rfl rfl rfl rfl rfl
  cycle s _ := hI.same s _ rfl rfl rfl rfl rfl
  timer s i t hc := hI.setChip s i _ _ hc (keepsRange_refTimerCycle _ t)
  timersCount _ i := hI.timersCount i
  timersAssert _ i irq nmi := hI.timersAssert i irq nmi
  react _ i cycle granted peeked got := hI.chipReact i cycle granted peeked got
  videoEnter _ i cycle := hI.videoEnter i cycle
  videoLeave _ i := hI.videoLeave i
  disk _ i cycle := hI.diskCycle i cycle
  advance := hI.advance
  overflow s _ := hI.same s _ rfl rfl rfl rfl rfl
  resolve s := hI.same s _ rfl rfl rfl rfl rfl
  start := hI.start

end

end Sys2Proof.Machine
end

section
/-! A store that no RAM entry names keeps its bytes: only writes to RAM addresses reach a store, and they
reach the store their mapping names (R58, R161). -/

namespace Sys2Proof.Machine

/-- A write to one store leaves what every other store reads. -/
theorem storesRead_write_other {id id' : Nat} (hne : id ≠ id') (off off' : Nat) (v : Byte) :
    ∀ stores : List Store,
      storesRead (storesWrite stores id off v) id' off' = storesRead stores id' off'
  | [] => rfl
  | st :: rest => by
    have ih := storesRead_write_other hne off off' v rest
    unfold storesRead at ih ⊢
    rw [storesWrite]
    by_cases hid : st.id = id
    · have other : (st.id == id') = false := by rw [hid]; exact beq_false_of_ne hne
      rw [if_pos hid, List.find?_cons, List.find?_cons, other]
    · rw [if_neg hid, List.find?_cons, List.find?_cons]
      cases st.id == id' with
      | true => rfl
      | false => exact ih

/-- An address of RAM lies in a RAM entry, which names the store (R153, R154). -/
theorem mem_of_target_ram {maps : List Mapping} {a : Word} {id off : Nat}
    (h : target maps a = .store .ram id off) : ∃ m ∈ maps, m.kind = .ram ∧ m.owner = id := by
  unfold target at h
  cases hr : resolve maps a with
  | none => rw [hr] at h; nomatch h
  | some m =>
    refine ⟨m, List.mem_of_find?_eq_some hr, ?_⟩
    rw [hr] at h
    cases hk : m.kind with
    | ram =>
      simp only [hk, Target.store.injEq, true_and] at h
      exact ⟨rfl, h.1⟩
    | rom | ioWindow => simp [hk] at h

/-- The mapping table of `b` is in force, and store `id` reads as it does in `b`. -/
def SameBytes (b : State) (id : Nat) (s : State) : Prop :=
  s.bus.maps = b.bus.maps ∧ ∀ off, s.storeByte id off = b.storeByte id off

/-- A store that no RAM entry of the table names keeps its bytes under every update of an iteration. -/
theorem sameBytes_updateClosed {b : State} {id : Nat}
    (unnamed : ∀ m ∈ b.bus.maps, m.kind = .ram → m.owner ≠ id) : UpdateClosed (SameBytes b id) where
  same s t _ bus _ _ _ h := by
    unfold SameBytes State.storeByte at h ⊢
    rwa [bus]
  store s a id' off' v ht h := by
    obtain ⟨maps, bytes⟩ := h
    obtain ⟨m, hm, hk, rfl⟩ := mem_of_target_ram ht
    have hne := unnamed m (maps ▸ hm) hk
    exact ⟨maps, fun off => (storesRead_write_other hne off' off v _).trans (bytes off)⟩
  setChip _ _ _ _ _ _ h := h
  react _ _ _ _ _ _ _ _ h := h
  start _ h := h
  advance _ _ _ h := h

/-- Settles O45: of all that an iteration does after its boundary, only a write to an address of RAM changes
a store, and it changes the one its RAM entry names. -/
theorem romBytesKept : Obligations.RomBytesKept := by
  intro s t id _ running hstep unnamed
  have kept : SameBytes (boundary s) id t :=
    step_keeps (sameBytes_updateClosed unnamed).stepClosed (fun h => absurd running h)
      (fun _ => ⟨rfl, fun _ => rfl⟩) hstep
  exact kept.2

end Sys2Proof.Machine
end

section
/-! The boundary and every update of an iteration keep the invariant of the machine. -/

namespace Sys2Proof.Machine

/-! ## The boundary -/

/-- Mapping events that may be queued keep a table sound and disjoint (R185). -/
theorem TableOk.events {c : MachineConfig} {events : List MapEvent} {maps : List Mapping}
    (h : TableOk c maps) (he : ∀ e ∈ events, mapEventOk c e = true) :
    TableOk c (events.foldl applyMapEvent maps) := by
  induction events generalizing maps with
  | nil => exact h
  | cons e rest ih =>
    exact ih (h.event (he e (List.mem_cons_self ..))) fun x hx => he x (List.mem_cons_of_mem _ hx)

/-- After the due bank switches the table is the one before or one of the configured set (R181, R183). -/
theorem applySwitches_table (tables : List (List Mapping)) (clock : Nat) :
    ∀ (switches : List BankSwitch) (maps : List Mapping),
      applySwitches tables clock maps switches = maps ∨ applySwitches tables clock maps switches ∈ tables
  | [], _ => .inl rfl
  | b :: rest, maps => by
    rw [applySwitches]
    split
    · split
      · rename_i t ht
        rcases applySwitches_table tables clock rest t with h | h
        · rw [h]; exact .inr (List.mem_of_getElem? ht)
        · exact .inr h
      · exact applySwitches_table tables clock rest maps
    · exact applySwitches_table tables clock rest maps

/-- Honouring the pause and reset requests keeps the invariant (R750, R753). -/
theorem honourRequests_inv {s : State} (h : s.Inv) : (honourRequests s).Inv := by
  unfold honourRequests
  dsimp only
  split
  · exact (honourReset_inv h).congr rfl rfl rfl rfl rfl
  · exact h.congr rfl rfl rfl rfl rfl

/-- The mapping changes of a boundary keep the invariant: the table stays sound and disjoint under the
events, and a bank switch installs a checked one (R181, R184, R750). -/
theorem applyMapChanges_inv {s : State} (h : s.Inv) : (applyMapChanges s).Inv := by
  have table : TableOk s.config (applyMapChanges s).bus.maps := by
    rcases applySwitches_table s.config.bankTables s.clock s.bus.pendingSwitches
      (s.bus.pendingExternal.foldl applyMapEvent s.bus.maps) with kept | switched
    · rw [show (applyMapChanges s).bus.maps = _ from kept]
      exact h.tableOk.events h.events
    · exact h.config.table (List.mem_cons_of_mem _ switched)
  exact { h with
    sound := table.1
    disjoint := table.2
    switches := fun b hb => h.switches b (List.mem_filter.1 hb).1
    events := fun _ he => absurd he List.not_mem_nil }

/-- The boundary keeps the invariant (R750). -/
theorem boundary_inv {s : State} (h : s.Inv) : (boundary s).Inv := by
  unfold boundary
  split
  · exact h.congr rfl rfl rfl rfl rfl
  · exact applyMapChanges_inv (honourRequests_inv h)

/-! ## The updates of an iteration -/

/-- The request taken is one of the queue, and the others stay. -/
theorem takeActive_subset {now : Nat} : ∀ {l : List Stall} {st : Stall} {others : List Stall},
    takeActive now l = some (st, others) → others ⊆ l
  | [], _, _, h => nomatch h
  | a :: l, _, _, h => by
    rw [takeActive] at h
    split at h
    · obtain ⟨-, rfl⟩ := Prod.mk.inj (Option.some.inj h)
      exact List.subset_cons_self a l
    · split at h
      · rename_i taken
        obtain ⟨-, rfl⟩ := Prod.mk.inj (Option.some.inj h)
        exact List.cons_subset_cons a (takeActive_subset taken)
      · nomatch h

/-- The arbiter puts no request in the queue (R732). -/
theorem takeStall_subset (now : Nat) (stalls : List Stall) : (takeStall now stalls).2 ⊆ stalls := by
  unfold takeStall
  dsimp only
  split
  · exact fun _ hx => (List.mem_filter.1 (takeActive_subset ‹_› hx)).1
  · exact List.filter_subset_self _

/-- The chips stay in range when one of them is replaced by one in range. -/
theorem State.Inv.chips_set {s : State} (h : s.Inv) {i : Nat} {old new : Chip}
    (hold : s.chips[i]? = some old) (hnew : KeepsRange (specOf s.config i) old new) :
    ∀ (j : Nat) c, (s.chips.set i new)[j]? = some c → chipInRange (specOf s.config j) c = true := by
  intro j c hc
  by_cases hij : i = j
  · subst hij
    obtain ⟨inside, -⟩ := List.getElem?_eq_some_iff.1 hold
    rw [List.getElem?_set_self inside] at hc
    rw [← Option.some.inj hc]
    exact hnew (h.config.spec i) (h.chips i old hold)
  · rw [List.getElem?_set_ne hij] at hc
    exact h.chips j c hc

/-- A chip replaced by one in range keeps the invariant. -/
theorem State.Inv.setChip {s : State} (h : s.Inv) {i : Nat} {old new : Chip}
    (hold : s.chips[i]? = some old) (hnew : KeepsRange (specOf s.config i) old new) :
    (s.setChip i new).Inv :=
  { h with
    stalls := by rw [State.setChip_chips, List.length_set]; exact h.stalls
    count := by rw [State.setChip_chips, List.length_set]; exact h.count
    chips := h.chips_set hold hnew }

/-- A chip's reaction keeps the invariant: what it queues is a stall of its own and switches to configured
tables, all of their widths (R78, R180, R731). -/
theorem State.Inv.react {s : State} (h : s.Inv) {i : Nat} (base : Nat) {old new : Chip} (r : Reaction)
    (hold : s.chips[i]? = some old) (hnew : KeepsRange (specOf s.config i) old new) :
    (s.react i base new r).Inv := by
  have core : KeepsRange (specOf s.config i) old (chipWithCore r.core new) := fun hs hc => by
    rw [chipInRange_withCore]; exact hnew hs hc
  obtain ⟨inside, -⟩ := List.getElem?_eq_some_iff.1 hold
  refine { h with switches := ?_, stalls := ?_, count := ?_, chips := h.chips_set hold core }
  · intro b hb
    rcases List.mem_append.1 hb with hb | hb
    · exact h.switches b hb
    · exact mem_emittedSwitches hb
  · rw [State.react_chips, List.length_set]
    intro st hst
    rcases List.mem_append.1 hst with hst | hst
    · exact h.stalls st hst
    · obtain ⟨start, pos, width, rfl⟩ := mem_emittedStalls hst
      exact ⟨start, pos, width, inside⟩
  · rw [State.react_chips, List.length_set]
    exact h.count

/-- A store to an address of the table keeps the invariant (R161). -/
theorem State.Inv.storeWrite {s : State} (h : s.Inv) {a : Word} {kind : StoreKind} {id off : Nat}
    (v : Byte) (ht : s.target a = .store kind id off) : (s.storeWrite id off v).Inv := by
  obtain ⟨canonical, sized, stores⟩ := h.storesOk.write v h.sound ht
  exact { h with canonical := canonical, sized := sized, stores := stores }

/-- The invariant is kept by every update of an iteration. -/
theorem inv_updateClosed : UpdateClosed State.Inv where
  same _ _ config bus clock chips stalls h := h.congr config bus clock chips stalls
  store _ _ _ _ v ht h := h.storeWrite v ht
  setChip _ _ _ _ hold hnew h := h.setChip hold hnew
  react _ _ base _ _ r hold hnew h := h.react base r hold hnew
  start _ h := { h with stalls := fun st hst => h.stalls st (takeStall_subset _ _ hst) }
  advance _ _ hn h := { h with clock := hn }

/-- Settles O46: the boundary keeps the invariant, and so does every update of the iteration after it. -/
theorem stepKeepsInvariant : Obligations.StepKeepsInvariant := fun _ _ h hstep =>
  step_keeps inv_updateClosed.stepClosed (fun _ => h) (fun _ => boundary_inv h) hstep

end Sys2Proof.Machine
end

section
/-! The machine a checked configuration builds: its stores read 0 and its chips are in range, so that it has
the invariant, and the one of State.reset is such a machine (R950, R951, R955). -/

namespace Sys2Proof.Machine

/-- A store is inserted among the others, and nothing else. -/
theorem mem_insertStore {st x : Store} {l : List Store} (h : x ∈ insertStore st l) : x = st ∨ x ∈ l := by
  induction l with
  | nil => exact .inl (List.mem_singleton.1 h)
  | cons y l ih =>
    rw [insertStore] at h
    split at h
    · exact List.mem_cons.1 h
    · rcases List.mem_cons.1 h with rfl | h
      · exact .inr (List.mem_cons_self ..)
      · exact (ih h).imp_right (List.mem_cons_of_mem _)

/-- Every store starts with no byte listed (R950). -/
theorem initialStores_empty : ∀ (sps : List StoreSpec), ∀ st ∈ initialStores sps, st.bytes = []
  | [], _, h => absurd h List.not_mem_nil
  | _ :: rest, st, h => by
    rcases mem_insertStore h with rfl | h
    · rfl
    · exact initialStores_empty rest st h

/-- Every byte of every store starts at 0 (R82, R950). -/
theorem storesRead_initialStores (sps : List StoreSpec) (id off : Nat) :
    storesRead (initialStores sps) id off = 0#8 := by
  unfold storesRead
  cases hf : (initialStores sps).find? (fun st => st.id == id) with
  | none => rfl
  | some st =>
    dsimp only
    rw [initialStores_empty sps st (List.mem_of_find?_eq_some hf)]
    rfl

/-- The stores of a configuration start as the invariant has them. -/
theorem initialStores_ok (c : MachineConfig) : StoresOk c (initialStores c.stores) := by
  refine ⟨initialStores_wf _, fun st hst x hx => ?_, decide_eq_true rfl⟩
  rw [initialStores_empty _ st hst] at hx
  exact absurd hx List.not_mem_nil

/-- A chip is in range at power-on (R707, R710, R713, R922). -/
theorem chipInRange_chipPowerOn {spec : ChipSpec} (h : SpecOk spec) :
    chipInRange spec (chipPowerOn spec) = true := by
  obtain ⟨periods, cells⟩ := h
  cases spec with
  | refTimer | io _ _ | audio _ | other _ => rfl
  | video frame line core =>
    simp only [videoPeriodsOk, Bool.and_eq_true, decide_eq_true_eq] at periods
    simp [chipInRange, chipPowerOn, periods]
  | disk num den core => exact decide_eq_true cells

/-- The machine a checked configuration builds has the invariant (R950). -/
theorem powerOn_inv {c : MachineConfig} (h : checkConfig c c.powerOnMaps = none) :
    (State.powerOn c).Inv := by
  have config := ConfigOk.of_checkConfig h
  obtain ⟨sound, disjoint⟩ := config.table (List.mem_cons_self ..)
  obtain ⟨canonical, sized, stores⟩ := (initialStores_ok c).images sound c.imagesPowerOn
  refine ⟨config, canonical, sized, stores, sound, disjoint, Nat.two_pow_pos 64, ?_, ?_, ?_,
    List.length_map .., fun i chip hi => ?_⟩
  · exact fun _ hb => absurd hb List.not_mem_nil
  · exact fun _ he => absurd he List.not_mem_nil
  · exact fun _ hst => absurd hst List.not_mem_nil
  · have hi : (c.chips.map chipPowerOn)[i]? = some chip := hi
    rw [List.getElem?_map] at hi
    obtain ⟨spec, hspec, rfl⟩ := Option.map_eq_some_iff.1 hi
    have hof : specOf c i = spec := by rw [specOf, hspec]
    show chipInRange (specOf c i) (chipPowerOn spec) = true
    rw [hof]
    exact chipInRange_chipPowerOn (hof ▸ config.spec i)

/-- Construction answers the machine of the power-on state where the check finds no error, and only there
(R950, R955). -/
theorem construct_eq_ok_iff {c : MachineConfig} {s : State} :
    construct c = .ok s ↔ checkConfig c c.powerOnMaps = none ∧ s = State.powerOn c := by
  unfold construct
  cases checkConfig c c.powerOnMaps with
  | none => simp [eq_comm]
  | some e => simp

/-- Settles O48: a constructed machine is `State.powerOn` of a checked configuration. -/
theorem powerOnValues : Obligations.PowerOnValues := by
  intro c s h
  obtain ⟨checked, rfl⟩ := construct_eq_ok_iff.1 h
  refine ⟨checked, rfl, rfl, rfl, rfl, rfl, rfl, rfl, rfl, fun id off noImages => ?_, powerOn_inv checked⟩
  show storesRead (applyImages c.powerOnMaps (initialStores c.stores) c.imagesPowerOn) id off = 0#8
  rw [noImages]
  exact storesRead_initialStores c.stores id off

/-- The configuration of State.reset passes the check (R955). -/
theorem resetMachine_checked :
    checkConfig Config.resetMachine Config.resetMachine.powerOnMaps = none := by
  decide +kernel

/-- Settles O47: State.reset is built from a checked configuration. -/
theorem resetHasInvariant : Obligations.ResetHasInvariant :=
  powerOn_inv resetMachine_checked

end Sys2Proof.Machine
end

section
/-! The status byte bit by bit, and the fault that stops the machine. -/

namespace Sys2Proof.Machine

/-- The status byte, bit after bit from bit 7 down (R66). -/
theorem Cpu.pByte_eq_concat (b : Bool) (c : Cpu) :
    c.pByte b = (((((((BitVec.ofBool c.flagN).concat c.flagV).concat true).concat b).concat
      c.flagD).concat c.flagI).concat c.flagZ).concat c.flagC := rfl

/-- Settles O33: reading a bit of the status byte takes the concatenation apart, and loading one takes six
of its bits. -/
theorem statusByteLayout : Obligations.StatusByteLayout := by
  refine ⟨fun b c => ?_, fun p c => rfl⟩
  rw [Cpu.pByte_eq_concat]
  simp

/-- A step from a recorded fault answers it (R81, R905). -/
theorem step_of_fault {s : State} {f : Fault} (h : s.sched.fault = some f) : step s = .fault f := by
  rw [step, h]

/-- The clock does not pass `2^64 - 1`: the advance faults there and changes nothing (R54). -/
theorem advance_overflow {s : State} {n : Nat} (h : 2 ^ 64 ≤ s.clock + n) :
    advance n s = .error (.clockOverflow s.clock) s :=
  if_neg (Nat.not_lt.2 h)

/-- Settles O42: a recorded fault answers every step, and the clock overflow is a fault. -/
theorem faultStopsMachine : Obligations.FaultStopsMachine :=
  ⟨fun _ _ => step_of_fault, fun _ _ => advance_overflow⟩

end Sys2Proof.Machine
end

section
/-! The mapping table: it changes at a boundary alone, and what the boundary's bank switches and mapping
events make of it (R57, R165, R181, R183, R185). -/

namespace Sys2Proof.Machine

/-! ## A step after its boundary -/

/-- The mapping table and the configuration are those of `b`. -/
def SameTable (b s : State) : Prop := s.bus.maps = b.bus.maps ∧ s.config = b.config

/-- No update of an iteration touches the mapping table or the configuration. -/
theorem sameTable_updateClosed (b : State) : UpdateClosed (SameTable b) where
  same _ _ config bus _ _ _ h := ⟨(congrArg Bus.maps bus).trans h.1, config.trans h.2⟩
  store _ _ _ _ _ _ h := h
  setChip _ _ _ _ _ _ h := h
  react _ _ _ _ _ _ _ _ h := h
  start _ h := h
  advance _ _ _ h := h

/-- Settles O44: the updates of an iteration keep the table the boundary left, and the boundary keeps the
configuration. -/
theorem stepKeepsTable : Obligations.StepKeepsTable := by
  intro s t _ running hstep
  have ⟨maps, config⟩ : SameTable (boundary s) t :=
    step_keeps (sameTable_updateClosed (boundary s)).stepClosed (fun h => absurd running h)
      (fun _ => ⟨rfl, rfl⟩) hstep
  exact ⟨maps, config.trans (boundary_config s)⟩

/-! ## Bank switches at a boundary -/

/-- With no request there is nothing to honour (R750). -/
theorem honourRequests_of_clear {s : State} (h : s.sched.hostReq = HostReq.clear) :
    honourRequests s = s := by
  calc honourRequests s
      = { s with sched := { s.sched with hostReq := HostReq.clear } } := by
        unfold honourRequests; rw [h]; rfl
    _ = s := by rw [← h]

/-- With no request a boundary makes the mapping changes alone (R750). -/
theorem boundary_of_clear {s : State} (h : s.sched.hostReq = HostReq.clear) :
    boundary s = applyMapChanges s := by
  unfold boundary
  rw [honourRequests_of_clear h, h]
  rfl

/-- Switches are applied one after the other (R183). -/
theorem applySwitches_append (tables : List (List Mapping)) (clock : Nat) (front back : List BankSwitch)
    (maps : List Mapping) : applySwitches tables clock maps (front ++ back)
      = applySwitches tables clock (applySwitches tables clock maps front) back := by
  induction front generalizing maps with
  | nil => rfl
  | cons b rest ih =>
    rw [List.cons_append, applySwitches, applySwitches]
    split
    · split <;> exact ih _
    · exact ih _

/-- A switch that is not due changes nothing (R181). -/
theorem applySwitches_future {tables : List (List Mapping)} {clock : Nat} {switches : List BankSwitch}
    (h : ∀ b ∈ switches, clock < b.effectiveCycle) (maps : List Mapping) :
    applySwitches tables clock maps switches = maps := by
  induction switches with
  | nil => rfl
  | cons b rest ih =>
    rw [applySwitches, if_neg (Nat.not_le.2 (h b (List.mem_cons_self ..)))]
    exact ih fun x hx => h x (List.mem_cons_of_mem _ hx)

/-- The last due switch decides the table: it installs its own, whatever was there (R181, R183). -/
theorem applySwitches_last_due {tables : List (List Mapping)} {clock : Nat} {b : BankSwitch}
    {back : List BankSwitch} {table : List Mapping} (due : b.effectiveCycle ≤ clock)
    (future : ∀ x ∈ back, clock < x.effectiveCycle) (named : tables[b.table]? = some table)
    (front : List BankSwitch) (maps : List Mapping) :
    applySwitches tables clock maps (front ++ b :: back) = table := by
  rw [applySwitches_append, applySwitches, if_pos due, named]
  exact applySwitches_future future table

/-- Settles O52: with no request and no event a boundary applies the switches to the table in force, and the
last due one decides. -/
theorem bankSwitchesApply : Obligations.BankSwitchesApply := by
  intro s clear noEvents
  have maps : (boundary s).bus.maps
      = applySwitches s.config.bankTables s.clock s.bus.maps s.bus.pendingSwitches := by
    rw [boundary_of_clear clear, applyMapChanges, noEvents]
    rfl
  refine ⟨?_, fun future => ?_, fun front b back table queue due future named => ?_⟩
  · rw [boundary_of_clear clear]
    exact List.filter_congr fun b _ => by rw [← decide_not, decide_eq_decide, Nat.not_le]
  · rw [maps, applySwitches_future future]
  · rw [maps, queue, applySwitches_last_due due future named]

/-! ## Mapping events -/

/-- What covers an address (R153). -/
theorem covers_iff {m : Mapping} {a : Word} : m.covers a = true ↔
    m.start.toNat ≤ a.toNat ∧ a.toNat < m.start.toNat + m.length := by
  rw [Mapping.covers, Bool.and_eq_true, decide_eq_true_eq, decide_eq_true_eq]

/-- When two mappings share an address (R57). -/
theorem intersects_iff {m q : Mapping} : m.range.intersects q.range = true ↔
    max m.start.toNat q.start.toNat < min (m.start.toNat + m.length) (q.start.toNat + q.length) :=
  decide_eq_true_iff

/-- Two entries that cover one address share it (R57, R153). -/
theorem intersects_of_covers {m q : Mapping} {a : Word} (hm : m.covers a = true) (hq : q.covers a = true) :
    m.range.intersects q.range = true := by
  obtain ⟨m1, m2⟩ := covers_iff.1 hm
  obtain ⟨q1, q2⟩ := covers_iff.1 hq
  exact intersects_iff.2 (by omega)

/-- Sharing an address is symmetric. -/
theorem intersects_comm (m q : Mapping) : m.range.intersects q.range = q.range.intersects m.range := by
  rw [Bool.eq_iff_iff, intersects_iff, intersects_iff, max_comm, min_comm]

/-- An address selects the only entry that covers it (R153). -/
theorem resolve_eq_some {maps : List Mapping} {a : Word} {m : Mapping} (mem : m ∈ maps)
    (cov : m.covers a = true) (unique : ∀ q ∈ maps, q.covers a = true → q = m) :
    resolve maps a = some m := by
  cases hr : resolve maps a with
  | none => exact absurd cov (List.find?_eq_none.1 hr m mem)
  | some q =>
    have hcov : q.covers a = true := by simpa using List.find?_some hr
    rw [unique q (List.mem_of_find?_eq_some hr) hcov]

/-- In a disjoint table an address selects the entry that covers it (R57, R153). -/
theorem resolve_of_mem {maps : List Mapping} {a : Word} {m : Mapping} (disjoint : mapsDisjoint maps = true)
    (mem : m ∈ maps) (cov : m.covers a = true) : resolve maps a = some m := by
  refine resolve_eq_some mem cov fun q hq hcov => by_contra fun hne => ?_
  have : Std.Symm fun x y : Mapping => x.range.intersects y.range = false :=
    ⟨fun x y h => (intersects_comm y x).trans h⟩
  have apart : q.range.intersects m.range = false :=
    ((mapsDisjoint_pairwise maps).1 disjoint).forall hq mem hne
  exact Bool.false_ne_true (apart.symm.trans (intersects_of_covers hcov cov))

/-- The table after an install: the new entry, and the old ones that do not meet it (R185). -/
theorem mem_installMapping {maps : List Mapping} {m q : Mapping} :
    q ∈ installMapping maps m ↔ q = m ∨ (q ∈ maps ∧ q.range.intersects m.range = false) := by
  simp [installMapping, or_comm]

/-- The table after a removal: the entries not wholly inside the range (R185). -/
theorem mem_removeMapping {maps : List Mapping} {r : AddrRange} {q : Mapping} :
    q ∈ removeMapping maps r ↔ q ∈ maps ∧ q.range.inside r = false := by
  simp [removeMapping]

/-- An install keeps a disjoint table disjoint: what meets the new entry is gone (R57, R185). -/
theorem mapsDisjoint_installMapping {maps : List Mapping} (m : Mapping) (h : mapsDisjoint maps = true) :
    mapsDisjoint (installMapping maps m) = true := by
  rw [mapsDisjoint_pairwise] at h ⊢
  refine List.pairwise_append.2 ⟨h.filter _, List.pairwise_singleton _ _, fun q hq x hx => ?_⟩
  rw [List.mem_singleton.1 hx]
  simpa using (List.mem_filter.1 hq).2

/-- A removal keeps a disjoint table disjoint (R57, R185). -/
theorem mapsDisjoint_removeMapping {maps : List Mapping} (r : AddrRange) (h : mapsDisjoint maps = true) :
    mapsDisjoint (removeMapping maps r) = true := by
  rw [mapsDisjoint_pairwise] at h ⊢
  exact h.filter _

/-- After an install every address of the new range selects the new entry: no entry left meets it (R185). -/
theorem resolve_installMapping (maps : List Mapping) {m : Mapping} {a : Word} (cov : m.covers a = true) :
    resolve (installMapping maps m) a = some m := by
  refine resolve_eq_some (mem_installMapping.2 (.inl rfl)) cov fun q hq hcov => ?_
  rcases mem_installMapping.1 hq with rfl | ⟨-, apart⟩
  · rfl
  · exact absurd (apart.symm.trans (intersects_of_covers hcov cov)) Bool.false_ne_true

/-- Settles O53, clause by clause. -/
theorem mappingEventsKeepDisjoint : Obligations.MappingEventsKeepDisjoint := fun maps m r =>
  ⟨fun _ => mem_installMapping, fun _ => mem_removeMapping,
    fun h => ⟨mapsDisjoint_installMapping m h, mapsDisjoint_removeMapping r h⟩,
    fun _ => resolve_installMapping maps⟩

end Sys2Proof.Machine
end

section
/-! Faults: a production machine records no other than the clock overflow, since its bus accesses complete and
every step answers a next state; an unmapped access of a validation build faults (R163, R761, R900, R905). -/

namespace Sys2Proof.Machine

/-! ## Every step answers a next state -/

/-- A CPU round answers a next state, whatever kind of step it runs (R302, R905). -/
theorem cpuRound_next (s : State) : ∃ t, cpuRound s = .next t := by
  unfold cpuRound
  split
  case h_4 =>
    split
    · exact ⟨_, rfl⟩
    · rename_i i s' _
      obtain ⟨t, ht⟩ := exec_next i s'
      exact ⟨_, by rw [ht]⟩
  all_goals exact ⟨_, rfl⟩

/-- An iteration answers a next state (R720, R905). -/
theorem iterate_next (s : State) : ∃ t, iterate s = .next t := by
  unfold iterate
  split
  case h_1 =>
    split
    · exact ⟨_, rfl⟩
    · exact cpuRound_next _
  all_goals exact ⟨_, rfl⟩

/-- A step answers a next state where no fault is recorded (R716, R905). -/
theorem step_next {s : State} (h : s.sched.fault = none) : ∃ t, step s = .next t := by
  unfold step
  rw [h]
  dsimp only
  split
  case h_1 => exact iterate_next _
  all_goals exact ⟨_, rfl⟩

/-! ## The faults of a production machine -/

/-- A production machine with no fault recorded but, maybe, the clock overflow. -/
def NoBusFault (s : State) : Prop :=
  s.production ∧ (s.sched.fault = none ∨ ∃ n, s.sched.fault = some (.clockOverflow n))

/-- It depends on the configuration and the fault alone. -/
theorem NoBusFault.congr {s t : State} (h : NoBusFault s) (config : t.config = s.config)
    (fault : t.sched.fault = s.sched.fault) : NoBusFault t := by
  unfold NoBusFault State.production at h ⊢
  rwa [config, fault]

/-- What leaves the configuration and the fault aside keeps it. -/
theorem NoBusFault.aside {s t : State} (h : NoBusFault s) (k : Aside s t) : NoBusFault t :=
  have ⟨config, _, _, fault⟩ := k
  h.congr config fault

/-- Every part of an iteration keeps it: a bus fault needs a validation build, and the clock's is the
overflow (R54, R163). -/
theorem noBusFault_stepClosed : StepClosed NoBusFault where
  record _ _ h := h
  handlerRead s i off t h := h.aside (registerRead_aside i off t s)
  handlerWrite s i off t v h := h.aside (registerWrite_aside i off t v s)
  store _ _ _ _ _ _ h := h
  fault _ _ _ _ validate _ h := absurd (h.1.symm.trans validate) Bool.false_ne_true
  cpu _ _ h := h
  cycle _ _ h := h
  timer _ _ _ _ h := h
  timersCount s i h := h.aside (timersCount_aside i s)
  timersAssert s i irq nmi h := h.aside (timersAssert_aside i irq nmi s)
  react s i cycle granted peeked got h := h.aside (chipReact_aside i cycle granted peeked got s)
  videoEnter s i cycle h := h.aside (videoEnter_aside i cycle s)
  videoLeave s i h := h.aside (videoLeave_aside i s)
  disk s i cycle h := h.aside (diskCycle_aside i cycle s)
  advance _ _ _ h := h
  overflow _ c h := ⟨h.1, .inr ⟨c, rfl⟩⟩
  resolve _ h := h
  start _ h := h

/-! ## The fault of a validation build -/

/-- A read of an unmapped address faults in a validation build (R163). -/
theorem memRead_unmapped {s : State} {a : Word} (validate : s.config.validateBus = true)
    (ht : s.target a = .unmapped) (kind : AccessKind) :
    memRead kind a s = .error (.unmappedAddressError .read a (s.clock + s.cycle)) s := by
  simp only [memRead, busRead, ht, validate, if_true]

/-- So does a write. -/
theorem memWrite_unmapped {s : State} {a : Word} (validate : s.config.validateBus = true)
    (ht : s.target a = .unmapped) (kind : AccessKind) (v : Byte) :
    memWrite kind a v s = .error (.unmappedAddressError .write a (s.clock + s.cycle)) s := by
  simp only [memWrite, busWrite, ht, validate, if_true]

/-- Settles O43: the step answers a next state, and neither its boundary nor its iteration records a fault
of the bus. -/
theorem productionNeverFaultsOnBus : Obligations.ProductionNeverFaultsOnBus := by
  refine ⟨fun s production _ noFault => ?_, fun s kind a v validate ht =>
    ⟨memRead_unmapped validate ht kind, memWrite_unmapped validate ht kind v⟩⟩
  obtain ⟨t, hstep⟩ := step_next noFault
  have start : NoBusFault s := ⟨production, .inl noFault⟩
  have kept : NoBusFault t := step_keeps noBusFault_stepClosed (fun _ => start)
    (fun _ => start.congr (boundary_config s) (boundary_fault s)) hstep
  exact ⟨t, hstep, kept.2⟩

end Sys2Proof.Machine
end

section
/-! Accesses: what a write leaves `peek` to find, and the register handler an access of a window calls
(R154, R160, R161, R164, R186, R706). -/

namespace Sys2Proof.Machine

/-! ## What peek finds after writes -/

/-- An address of a store peeks as the byte it selects (R188). -/
theorem State.peek_store {s : State} {a : Word} {kind : StoreKind} {id off : Nat}
    (h : s.target a = .store kind id off) : s.peek a = s.storeByte id off := by
  rw [State.peek, h]

/-- Every other address peeks as `OPEN_BUS_VALUE` (R188). -/
theorem State.peek_not_store {s : State} {a : Word} (h : ∀ kind id off, s.target a ≠ .store kind id off) :
    s.peek a = s.config.openBusValue := by
  unfold State.peek
  cases ht : s.target a with
  | store kind id off => exact absurd ht (h kind id off)
  | chip i off => rfl
  | unmapped => rfl

/-- After writes an address of a store peeks as the byte they leave there. -/
theorem WriteFrame.peek_store {s t : State} {ws : List (Word × Byte)} (h : WriteFrame s ws t) {a : Word}
    {kind : StoreKind} {id off : Nat} (ht : s.target a = .store kind id off) :
    t.peek a = s.byteAfter ws id off := by
  rw [State.peek_store ((h.others.target a).trans ht), h.bytes]

/-- After writes every other address peeks as before. -/
theorem WriteFrame.peek_not_store {s t : State} {ws : List (Word × Byte)} (h : WriteFrame s ws t)
    {a : Word} (ht : ∀ kind id off, s.target a ≠ .store kind id off) : t.peek a = s.peek a := by
  rw [State.peek_not_store ht, ← h.others.config]
  exact State.peek_not_store fun kind id off => by rw [h.others.target]; exact ht kind id off

/-- A byte after one write (R161). -/
theorem State.byteAfter_one (s : State) (a : Word) (v : Byte) (id off : Nat) :
    s.byteAfter [(a, v)] id off
      = if s.target a = .store .ram id off ∧ s.hasStore id = true then v else s.storeByte id off := rfl

/-- After a write to RAM every address that selects the byte peeks as the one written, and every other as
before (R161, R188). -/
theorem WriteFrame.peek_one {s t : State} {a : Word} {v : Byte} (h : WriteFrame s [(a, v)] t)
    {id off : Nat} (ht : s.target a = .store .ram id off) (present : s.hasStore id = true) :
    (∀ b kind, s.target b = .store kind id off → t.peek b = v) ∧
      (∀ b, (∀ kind, s.target b ≠ .store kind id off) → t.peek b = s.peek b) := by
  refine ⟨fun b kind hb => ?_, fun b hb => ?_⟩
  · rw [h.peek_store hb, State.byteAfter_one, if_pos ⟨ht, present⟩]
  · by_cases stored : ∃ kind id' off', s.target b = .store kind id' off'
    · obtain ⟨kind, id', off', hb'⟩ := stored
      have elsewhere : ¬(s.target a = .store .ram id' off' ∧ s.hasStore id' = true) := by
        rintro ⟨ha, -⟩
        obtain ⟨-, rfl, rfl⟩ := Target.store.inj (ht.symm.trans ha)
        exact hb kind hb'
      rw [h.peek_store hb', State.byteAfter_one, if_neg elsewhere, State.peek_store hb']
    · exact h.peek_not_store fun kind id' off' hb' => stored ⟨kind, id', off', hb'⟩

/-- A write to ROM changes no store (R161, R186). -/
theorem memWrite_rom_stores {s t : State} {kind : AccessKind} {a : Word} {v : Byte} {id off : Nat}
    (ht : s.target a = .store .rom id off) (h : memWrite kind a v s = .ok () t) :
    t.bus.stores = s.bus.stores := by
  simp only [memWrite, busWrite, ht] at h
  rw [← (EStateM.Result.ok.inj h).2]
  rfl

/-! ## Register handlers -/

/-- A register read of a reference timer (R916). -/
theorem registerRead_refTimer {s : State} {i : Nat} {tm : RefTimer} (h : s.chips[i]? = some (.refTimer tm))
    (off now : Nat) : registerRead i off now s
      = ((refTimerRead tm off).1, s.setChip i (.refTimer (refTimerRead tm off).2)) := by
  rw [registerRead, h]

/-- A register write of a reference timer (R916). -/
theorem registerWrite_refTimer {s : State} {i : Nat} {tm : RefTimer} (h : s.chips[i]? = some (.refTimer tm))
    (off now : Nat) (v : Byte) :
    registerWrite i off now v s = s.setChip i (.refTimer (refTimerWrite tm off v)) := by
  rw [registerWrite, h]

/-- A register read of any other chip is its handler's, whose output events alone may be those of a video
chip's pipeline (R164, R706, R711). -/
theorem registerRead_other {s : State} {i : Nat} {c : Chip} (h : s.chips[i]? = some c)
    (other : ∀ tm, c ≠ .refTimer tm) (off now : Nat) : registerRead i off now s
      = ((Config.coreRead i c off now).1,
        s.react i now (setCounters (specOf s.config i) (Config.coreRead i c off now).2.counters c)
          (handlerReaction (specOf s.config i) i now (fun view => Config.videoReadEvents i view off now) c
            (Config.coreRead i c off now).2.reaction)) := by
  unfold registerRead
  rw [h]
  cases c with
  | refTimer tm => exact absurd rfl (other tm)
  | video _ _ | io _ _ | disk _ _ | audio _ | other _ => rfl

/-- A register write of any other chip, recorded first where the chip is a video chip (R164, R706, R711). -/
theorem registerWrite_other {s : State} {i : Nat} {c : Chip} (h : s.chips[i]? = some c)
    (other : ∀ tm, c ≠ .refTimer tm) (off now : Nat) (v : Byte) : registerWrite i off now v s
      = s.react i now (setCounters (specOf s.config i) (Config.coreWrite i c off v now).counters
            (recordLatch off now v c))
          (handlerReaction (specOf s.config i) i now (fun view => Config.videoWriteEvents i view off now)
            (recordLatch off now v c) (Config.coreWrite i c off v now).reaction) := by
  unfold registerWrite
  rw [h]
  cases c with
  | refTimer tm => exact absurd rfl (other tm)
  | video _ _ | io _ _ | disk _ _ | audio _ | other _ => rfl

@[simp] theorem handlerReaction_core (spec : ChipSpec) (i t : Nat) (emit : RasterView → List Int) (c : Chip)
    (r : Reaction) : (handlerReaction spec i t emit c r).core = r.core := by cases c <;> rfl
@[simp] theorem handlerReaction_stalls (spec : ChipSpec) (i t : Nat) (emit : RasterView → List Int) (c : Chip)
    (r : Reaction) : (handlerReaction spec i t emit c r).stalls = r.stalls := by cases c <;> rfl
@[simp] theorem handlerReaction_switches (spec : ChipSpec) (i t : Nat) (emit : RasterView → List Int)
    (c : Chip) (r : Reaction) : (handlerReaction spec i t emit c r).switches = r.switches := by
  cases c <;> rfl

/-! ## Accesses of a window -/

/-- An address of a window selects its chip, at the offset in the window (R154). -/
theorem target_of_window {maps : List Mapping} {a : Word} {m : Mapping} (disjoint : mapsDisjoint maps = true)
    (mem : m ∈ maps) (window : m.kind = .ioWindow) (cov : m.covers a = true) :
    target maps a = .chip m.owner (m.offset a) := by
  rw [target, resolve_of_mem disjoint mem cov]
  dsimp only
  rw [window]

/-- A read of a window gives the byte of the register handler, and the state it leaves with the read's record
and one cycle more (R160, R164). -/
theorem memRead_chip {s : State} {a : Word} {i off : Nat} (h : s.target a = .chip i off)
    (kind : AccessKind) : memRead kind a s
      = .ok (registerRead i off (s.clock + s.cycle) s).1
          ((registerRead i off (s.clock + s.cycle) s).2.record
            (readRec s 0 kind a (registerRead i off (s.clock + s.cycle) s).1)).tickCycle := by
  simp only [memRead, busRead, h, readRec, Nat.add_zero]

/-- A write of a window leaves the state of the register handler with the write's record and one cycle more
(R161, R164). -/
theorem memWrite_chip {s : State} {a : Word} {i off : Nat} (h : s.target a = .chip i off)
    (kind : AccessKind) (v : Byte) : memWrite kind a v s
      = .ok () ((registerWrite i off (s.clock + s.cycle) v s).record (writeRec s 0 kind a v)).tickCycle := by
  simp only [memWrite, busWrite, h, writeRec, Nat.add_zero]

/-- What a reaction leaves of the bus: its switches queue, and nothing else (R180). -/
theorem State.react_bus (s : State) (i base : Nat) (c : Chip) (r : Reaction) :
    (s.react i base c r).bus = { s.bus with
      pendingSwitches := s.bus.pendingSwitches
        ++ emittedSwitches s.config.bankTables.length base r.switches } := rfl

/-- Settles O41: the clauses on RAM and ROM from what one write does, those on windows from the register
handler of the chip the address selects. -/
theorem writeThenReadBack : Obligations.WriteThenReadBack := by
  refine ⟨fun s t kind a v production canonical hw => ⟨fun id off ht present => ?_,
    fun id off ht => memWrite_rom_stores ht hw⟩, ?_⟩
  · obtain ⟨⟨⟩, u, hu, ran⟩ := memWrite_completes production canonical kind a v
    obtain ⟨-, rfl⟩ := EStateM.Result.ok.inj (hu.symm.trans hw)
    exact ran.frame.peek_one ht present
  · rintro s kind a v m off now disjoint mem window cov hoff rfl
    have ht : s.target a = .chip m.owner off := hoff ▸ target_of_window disjoint mem window cov
    rw [memRead_chip ht, memWrite_chip ht]
    refine ⟨fun tm hc => ?_, fun c hc other => ?_⟩
    · rw [registerRead_refTimer hc, registerWrite_refTimer hc]
      exact ⟨⟨_, rfl, rfl, rfl, rfl⟩, ⟨_, rfl, rfl, rfl, rfl⟩⟩
    · rw [registerRead_other hc other, registerWrite_other hc other]
      constructor
      · rintro h rfl
        refine ⟨_, rfl, rfl, ?_, ?_, ?_⟩ <;> simp [State.react_bus]
      · rintro h rfl
        refine ⟨_, rfl, rfl, ?_, ?_, ?_⟩ <;> simp [State.react_bus]

end Sys2Proof.Machine
end

section
/-! The encoder and the decoder are inverse (R250, R251, R263, R268): every row of the opcode map builds the
instructions its opcode byte encodes, every instruction is the one its row builds from its operand bytes, and
the decoder takes as many operand bytes as the mode of the row asks. -/

namespace Sys2Proof

open Machine

/-! ## The rows of the opcode map -/

/-- What the opcode map says of the instruction a row builds from two bytes: it has the row's opcode byte and
mode, its operand bytes are as many of the two as the mode asks, and its form is one the prose gives. -/
structure Row.Builds (r : Row) (op b1 b2 : Byte) : Prop where
  opcode : (r.build b1 b2).opcode = op
  operands : (r.build b1 b2).operandBytes = match r.mode.length with
    | 1 => []
    | 2 => [b1]
    | _ => [loByte (mkWord b2 b1), hiByte (mkWord b2 b1)]
  mode : (r.build b1 b2).mode = r.mode
  wellFormed : (r.build b1 b2).wellFormed = true

/-- The 256 rows, by their number (R263). -/
theorem rowOf_ofNat_builds {n : Nat} (hn : n < 256) (b1 b2 : Byte) :
    (rowOf (BitVec.ofNat 8 n)).Builds (BitVec.ofNat 8 n) b1 b2 := by
  interval_cases n <;> exact ⟨rfl, rfl, rfl, rfl⟩

/-- Every opcode byte has such a row (R265). -/
theorem rowOf_builds (op b1 b2 : Byte) : (rowOf op).Builds op b1 b2 := by
  simpa using rowOf_ofNat_builds op.isLt b1 b2

/-- A mode asks for one to three bytes (R250). -/
theorem Mode.length_cases (m : Mode) : m.length = 1 ∨ m.length = 2 ∨ m.length = 3 := by
  cases m <;> decide

/-- The instruction a row builds from the operand bytes an instruction of it has, an absent byte being 0. -/
def Row.ofOperands (r : Row) (ops : List Byte) : Instr := r.build (ops.getD 0 0#8) (ops.getD 1 0#8)

/-- The instruction a row builds from as many operand bytes as its mode asks is encoded as the row's opcode
byte and those bytes (R250, R251). -/
theorem encode_ofOperands {op : Byte} {ops : List Byte} (h : ops.length + 1 = (rowOf op).mode.length) :
    encode ((rowOf op).ofOperands ops) = op :: ops := by
  obtain ⟨opcode, operands, -, -⟩ := rowOf_builds op (ops.getD 0 0#8) (ops.getD 1 0#8)
  rw [encode, Row.ofOperands, opcode, operands, ← h]
  match ops, h with
  | [], _ => rfl
  | [_], _ => rfl
  | [b1, b2], _ => simp
  | _ :: _ :: _ :: _, h => have := (rowOf op).mode.length_cases; simp at h; omega

/-- Every instruction is the one its row builds from its operand bytes (R251, R263). -/
theorem ofOperands_operandBytes (i : Instr) : (rowOf i.opcode).ofOperands i.operandBytes = i := by
  cases i
  all_goals dsimp only [Instr.opcode, Instr.operandBytes]
  -- Where the instruction has an operand word, its two bytes make the word again; the others are what the
  -- row builds as they stand.
  all_goals try rfl
  all_goals exact congrArg _ (mkWord_bytes _)

/-- Every instruction has the mode of its row. -/
theorem rowOf_opcode_mode (i : Instr) : (rowOf i.opcode).mode = i.mode := by
  rw [← (rowOf_builds i.opcode _ _).mode]
  exact congrArg Instr.mode (ofOperands_operandBytes i)

/-- Every instruction has a form the prose gives its mnemonic (R401 to R660). -/
theorem Instr.wellFormed_eq_true (i : Instr) : i.wellFormed = true := by
  rw [← ofOperands_operandBytes i]
  exact (rowOf_builds i.opcode _ _).wellFormed

/-- An instruction has as many operand bytes as its mode asks (R250, R251). -/
theorem length_operandBytes (i : Instr) : i.operandBytes.length + 1 = i.mode.length := by
  have operands := (rowOf_builds i.opcode (i.operandBytes.getD 0 0#8) (i.operandBytes.getD 1 0#8)).operands
  rw [show (rowOf i.opcode).build _ _ = i from ofOperands_operandBytes i, rowOf_opcode_mode] at operands
  rw [operands]
  rcases i.mode.length_cases with h | h | h <;> rw [h] <;> rfl

/-! ## What the decoder does -/

/-- The decoder reads as many operand bytes as the row's mode asks, and leaves the bytes after them (R268). -/
theorem decode_cons_of_le {op : Byte} {bs : List Byte} (h : (rowOf op).mode.length ≤ bs.length + 1) :
    decode (op :: bs) = .ok ((rowOf op).ofOperands (bs.take ((rowOf op).mode.length - 1)),
      bs.drop ((rowOf op).mode.length - 1)) := by
  unfold decode
  rcases (rowOf op).mode.length_cases with hl | hl | hl <;> simp only [hl] at h ⊢
  · rfl
  · match bs, h with
    | _ :: _, _ => rfl
  · match bs, h with
    | _ :: _ :: _, _ => rfl

/-- It refuses where fewer follow than the mode asks (R268). -/
theorem decode_cons_of_lt {op : Byte} {bs : List Byte} (h : bs.length + 1 < (rowOf op).mode.length) :
    decode (op :: bs) = .error (.missingOperand op) := by
  unfold decode
  rcases (rowOf op).mode.length_cases with hl | hl | hl <;> simp only [hl] at h ⊢
  · omega
  · match bs, h with
    | [], _ => rfl
  · match bs, h with
    | [], _ => rfl
    | [_], _ => rfl

/-- The decoder reads the operand bytes that are as many as the mode of the opcode byte asks, whatever
follows them (R250, R268). -/
theorem decode_append {op : Byte} {ops : List Byte} (h : ops.length + 1 = (rowOf op).mode.length)
    (rest : List Byte) : decode (op :: (ops ++ rest)) = .ok ((rowOf op).ofOperands ops, rest) := by
  rw [decode_cons_of_le (by rw [List.length_append]; omega), ← h, Nat.add_sub_cancel, List.take_left,
    List.drop_left]

/-- It refuses exactly the byte sequences that are shorter than the mode of their opcode byte asks (R268). -/
theorem decode_cons_error_iff (op : Byte) (bs : List Byte) :
    (∃ e, decode (op :: bs) = .error e) ↔ bs.length + 1 < (rowOf op).mode.length := by
  refine ⟨fun ⟨e, he⟩ => ?_, fun h => ⟨_, decode_cons_of_lt h⟩⟩
  by_contra enough
  rw [decode_cons_of_le (Nat.le_of_not_lt enough)] at he
  nomatch he

/-- Settles O1: the decoder takes the operand bytes the encoder wrote, and the row of the opcode builds the
instruction from them. -/
theorem decodeInvertsEncode : Obligations.DecodeInvertsEncode := by
  intro i rest
  have length := length_operandBytes i
  refine ⟨length, ?_⟩
  rw [← rowOf_opcode_mode] at length
  calc decode (encode i ++ rest)
      = .ok ((rowOf i.opcode).ofOperands i.operandBytes, rest) := decode_append length rest
    _ = .ok (i, rest) := by rw [ofOperands_operandBytes]

/-- Settles O2: what was decoded is built by the row of the first byte from the operand bytes that follow. -/
theorem encodeInvertsDecode : Obligations.EncodeInvertsDecode := by
  rintro (_ | ⟨op, bs⟩) rest i h
  · nomatch h
  have enough : (rowOf op).mode.length ≤ bs.length + 1 := by
    by_contra short
    rw [decode_cons_of_lt (Nat.lt_of_not_le short)] at h
    nomatch h
  rw [decode_cons_of_le enough] at h
  obtain ⟨rfl, rfl⟩ := Prod.mk.inj (Except.ok.inj h)
  have taken : (bs.take ((rowOf op).mode.length - 1)).length + 1 = (rowOf op).mode.length := by
    have := (rowOf op).mode.length_cases
    rw [List.length_take]
    omega
  refine ⟨?_, Instr.wellFormed_eq_true _⟩
  rw [encode_ofOperands taken, List.cons_append, List.take_append_drop]

/-- Settles O3: no mode asks for more than two operand bytes, and the row builds an instruction of its
opcode. -/
theorem everyOpcodeDecodes : Obligations.EveryOpcodeDecodes := by
  refine ⟨fun op b1 b2 => ?_, rfl, decode_cons_error_iff⟩
  have enough : (rowOf op).mode.length ≤ [b1, b2].length + 1 := by
    have := (rowOf op).mode.length_cases
    simp only [List.length_cons, List.length_nil]
    omega
  exact ⟨_, _, decode_cons_of_le enough, (rowOf_builds op _ _).opcode⟩

/-- Settles O4: the encoder writes each of these words, so the decoder reads it back. -/
theorem sampleWordsDecode : Obligations.SampleWordsDecode := by
  have read := fun i rest => (decodeInvertsEncode i rest).2
  exact ⟨read (.ldaImm 0x80#8) [], read (.staAbsx 0x2010#16) [], read (.adcIndy 0x44#8) [0xEA#8],
    read (.rolZpx 0x07#8) [], read (.jmpInd 0x30FF#16) [], read (.jsrAbs 0x1234#16) [],
    read (.bneRel 0xFE#8) [], read .php [], read (.tasAbsy 0x1FFF#16) [], read .jamF2 []⟩

end Sys2Proof
end

section
/-! The addressing modes, mode by mode: the effective address each template of a write gives (R253 to R258),
and the data byte each template of a read delivers where the bytes it reads are bytes of stores. -/

namespace Sys2Proof.Machine

/-! ## Effective addresses -/

/-- `indx` where the pointer bytes are bytes of stores (R257, R321). -/
theorem addrIndx_plain {s : State} (hp : s.production) (b1 : Byte) {q : Byte} (hq : q = b1 + s.cpu.x)
    (plainLo : s.plain (zext16 q)) (plainHi : s.plain (zext16 (q + 1#8))) :
    ∃ d t, addrIndx b1 s = .ok (mkWord (s.peek (zext16 (q + 1#8))) (s.peek (zext16 q))) t
      ∧ RanReads s [readRec s 0 .dummy (zext16 b1) d,
          readRec s 1 .pointer (zext16 q) (s.peek (zext16 q)),
          readRec s 2 .pointer (zext16 (q + 1#8)) (s.peek (zext16 (q + 1#8)))] t := by
  subst hq
  obtain ⟨_, t, ht, d, lo, hi, rfl, hlo, hhi, ran⟩ := addrIndx_completes hp b1
  obtain rfl := hlo.peek plainLo
  obtain rfl := hhi.peek plainHi
  exact ⟨d, t, ht, ran⟩

/-- `indy` of a write where the pointer bytes are bytes of stores (R258, R322). -/
theorem addrIndy_plain {s : State} (hp : s.production) (b1 : Byte) {p : Word}
    (hpointer : p = mkWord (s.peek (zext16 (b1 + 1#8))) (s.peek (zext16 b1)))
    (plainLo : s.plain (zext16 b1)) (plainHi : s.plain (zext16 (b1 + 1#8))) :
    ∃ d t, addrIndy b1 s = .ok (p + zext16 s.cpu.y) t
      ∧ RanReads s [readRec s 0 .pointer (zext16 b1) (s.peek (zext16 b1)),
          readRec s 1 .pointer (zext16 (b1 + 1#8)) (s.peek (zext16 (b1 + 1#8))),
          readRec s 2 .dummy (mkWord (hiByte p) (loByte p + s.cpu.y)) d] t := by
  subst hpointer
  obtain ⟨_, t, ht, lo, hi, d, rfl, hlo, hhi, ran⟩ := addrIndy_completes hp b1
  obtain rfl := hlo.peek plainLo
  obtain rfl := hhi.peek plainHi
  exact ⟨d, t, ht, ran⟩

/-- Settles O7: each clause is what the template of its mode can do. -/
theorem effectiveAddresses : Obligations.EffectiveAddresses := by
  intro s b1 w hp
  refine ⟨rfl, rfl, ?zpx, ?zpy, ?absx, ?absy, fun _ => addrIndx_plain hp b1, fun _ => addrIndy_plain hp b1⟩
  case zpx =>
    obtain ⟨_, t, ht, rfl, d, ran⟩ := addrZpx_completes hp b1
    exact ⟨d, t, ht, ran⟩
  case zpy =>
    obtain ⟨_, t, ht, rfl, d, ran⟩ := addrZpy_completes hp b1
    exact ⟨d, t, ht, ran⟩
  case absx =>
    obtain ⟨_, t, ht, rfl, d, ran⟩ := addrAbsx_completes hp w
    exact ⟨d, t, ht, ran⟩
  case absy =>
    obtain ⟨_, t, ht, rfl, d, ran⟩ := addrAbsy_completes hp w
    exact ⟨d, t, ht, ran⟩

/-! ## Data bytes -/

/-- One read of a byte of a store, following accesses that only read, gives that byte (R160). -/
theorem memRead_after_plain {s t : State} {recs : List AccessRecord} (hp : s.production)
    (h : RanReads s recs t) (kind : AccessKind) {a : Word} (plain : s.plain a) :
    ∃ u, memRead kind a t = .ok (s.peek a) u
      ∧ RanReads s (recs ++ [readRec s recs.length kind a (s.peek a)]) u := by
  obtain ⟨v, u, hu, ran, hv⟩ := memRead_after hp h kind a
  obtain rfl := hv.peek plain
  exact ⟨u, hu, ran⟩

/-- A data read at the address a template gave (R313 to R315, R321). -/
theorem readAt_plain {s t : State} {ea : M Word} {a : Word} {recs : List AccessRecord} (hp : s.production)
    (hea : ea s = .ok a t) (h : RanReads s recs t) (plain : s.plain a) :
    ∃ u, readAt ea s = .ok (s.peek a) u
      ∧ RanReads s (recs ++ [readRec s recs.length .data a (s.peek a)]) u := by
  obtain ⟨u, hu, ran⟩ := memRead_after_plain hp h .data plain
  exact ⟨u, (bind_ok hea _).trans hu, ran⟩

/-- An index addition crosses a page exactly where the sum passes 0xFF (R256, R258). -/
theorem indexed_cross (base : Word) (r : Byte) : (indexed base r).cross = crosses (loByte base) r := rfl

/-- Where it crosses no page, the unfixed address is the effective one (R256, R258). -/
theorem unfixed_of_not_crosses {base : Word} {r : Byte} (h : ¬ crosses (loByte base) r = true) :
    mkWord (hiByte base) (loByte base + r) = base + zext16 r :=
  unfixed_eq (by simpa [crosses] using h)

/-- The accesses of an indexed read of bytes of stores, the first of them `n` cycles after `s`: the effective
address alone where the addition crosses no page, else the unfixed address before it (R320, R322). -/
def indexedReads (s : State) (n : Nat) (base : Word) (r : Byte) : List AccessRecord :=
  if crosses (loByte base) r then
    [readRec s n .data (mkWord (hiByte base) (loByte base + r))
        (s.peek (mkWord (hiByte base) (loByte base + r))),
      readRec s (n + 1) .data (base + zext16 r) (s.peek (base + zext16 r))]
  else [readRec s n .data (base + zext16 r) (s.peek (base + zext16 r))]

/-- An indexed read of bytes of stores gives the byte at the effective address (R320, R322). -/
theorem readIndexed_plain {s t : State} {recs : List AccessRecord} (hp : s.production)
    (h : RanReads s recs t) {base : Word} {r : Byte}
    (plainUnfixed : s.plain (mkWord (hiByte base) (loByte base + r))) (plain : s.plain (base + zext16 r)) :
    ∃ u, readIndexed (indexed base r) t = .ok (s.peek (base + zext16 r)) u
      ∧ RanReads s (recs ++ indexedReads s recs.length base r) u := by
  obtain ⟨m, u, hu, v, hv, k⟩ := readIndexed_after hp h (indexed base r)
  obtain rfl : v = _ := hv.peek plainUnfixed
  rw [indexed_cross] at k
  unfold indexedReads
  split at k
  next crossing =>
    obtain ⟨hm, ran⟩ := k
    obtain rfl : m = _ := hm.peek plain
    rw [if_pos crossing]
    exact ⟨u, hu, ran⟩
  next same =>
    obtain ⟨rfl, ran⟩ := k
    have unfixed : (indexed base r).unfixed = base + zext16 r := unfixed_of_not_crosses same
    rw [unfixed] at hu ran
    rw [if_neg same]
    exact ⟨u, hu, ran⟩

/-- `zpx` and `zpy`, by their address templates (R314). -/
theorem readZpIndexed_plain {s : State} {ea : M Word} {b1 r : Byte} (hp : s.production)
    (h : Completes ea s fun a t => a = zext16 (b1 + r)
      ∧ ∃ d, RanReads s [readRec s 0 .dummy (zext16 b1) d] t) (plain : s.plain (zext16 (b1 + r))) :
    ∃ d t, readAt ea s = .ok (s.peek (zext16 (b1 + r))) t
      ∧ RanReads s [readRec s 0 .dummy (zext16 b1) d,
          readRec s 1 .data (zext16 (b1 + r)) (s.peek (zext16 (b1 + r)))] t := by
  obtain ⟨_, t, ht, rfl, d, ran⟩ := h
  obtain ⟨u, hu, ran⟩ := readAt_plain hp ht ran plain
  exact ⟨d, u, hu, ran⟩

/-- `indx` (R321). -/
theorem readIndx_plain {s : State} (hp : s.production) (b1 : Byte) {q : Byte} {ea : Word}
    (hq : q = b1 + s.cpu.x) (hea : ea = mkWord (s.peek (zext16 (q + 1#8))) (s.peek (zext16 q)))
    (plainLo : s.plain (zext16 q)) (plainHi : s.plain (zext16 (q + 1#8))) (plain : s.plain ea) :
    ∃ d t, readIndx b1 s = .ok (s.peek ea) t
      ∧ RanReads s [readRec s 0 .dummy (zext16 b1) d,
          readRec s 1 .pointer (zext16 q) (s.peek (zext16 q)),
          readRec s 2 .pointer (zext16 (q + 1#8)) (s.peek (zext16 (q + 1#8))),
          readRec s 3 .data ea (s.peek ea)] t := by
  subst hea
  obtain ⟨d, t, ht, ran⟩ := addrIndx_plain hp b1 hq plainLo plainHi
  obtain ⟨u, hu, ran⟩ := readAt_plain hp ht ran plain
  exact ⟨d, u, hu, ran⟩

/-- `indy` of a read (R322). -/
theorem readIndy_plain {s : State} (hp : s.production) (b1 : Byte) {p : Word}
    (hpointer : p = mkWord (s.peek (zext16 (b1 + 1#8))) (s.peek (zext16 b1)))
    (plainLo : s.plain (zext16 b1)) (plainHi : s.plain (zext16 (b1 + 1#8)))
    (plainUnfixed : s.plain (mkWord (hiByte p) (loByte p + s.cpu.y)))
    (plain : s.plain (p + zext16 s.cpu.y)) :
    ∃ t, readIndy b1 s = .ok (s.peek (p + zext16 s.cpu.y)) t
      ∧ RanReads s ([readRec s 0 .pointer (zext16 b1) (s.peek (zext16 b1)),
          readRec s 1 .pointer (zext16 (b1 + 1#8)) (s.peek (zext16 (b1 + 1#8)))]
        ++ indexedReads s 2 p s.cpu.y) t := by
  subst hpointer
  obtain ⟨_, t, ht, lo, hi, rfl, hlo, hhi, ran⟩ := pointerY_completes hp b1
  obtain rfl := hlo.peek plainLo
  obtain rfl := hhi.peek plainHi
  obtain ⟨u, hu, ran⟩ := readIndexed_plain hp ran plainUnfixed plain
  exact ⟨u, ((bind_ok (show getCpu s = .ok s.cpu s from rfl) _).trans (bind_ok ht _)).trans hu, ran⟩

/-- Settles O8: each clause is what the template of its mode does on bytes of stores. -/
theorem readOperands : Obligations.ReadOperands := by
  intro s b1 w hp
  have start := RanReads.refl s
  refine ⟨rfl, readAt_plain hp rfl start, readAt_plain hp rfl start, ?zeroPageIndexed, ?absoluteIndexed,
    fun _ _ => readIndx_plain hp b1, ?indy⟩
  case zeroPageIndexed =>
    intro r f mem
    simp only [List.mem_cons, Prod.mk.injEq, List.not_mem_nil, or_false] at mem
    rcases mem with ⟨rfl, rfl⟩ | ⟨rfl, rfl⟩
    · exact readZpIndexed_plain hp (addrZpx_completes hp b1)
    · exact readZpIndexed_plain hp (addrZpy_completes hp b1)
  case absoluteIndexed =>
    rintro r f mem u ea rfl rfl
    simp only [List.mem_cons, Prod.mk.injEq, List.not_mem_nil, or_false] at mem
    rcases mem with ⟨rfl, rfl⟩ | ⟨rfl, rfl⟩
    · exact readIndexed_plain hp start
    · exact readIndexed_plain hp start
  case indy =>
    rintro p u ea pointer rfl rfl
    exact readIndy_plain hp b1 pointer

end Sys2Proof.Machine
end

section
/-! A CPU round: which of the five kinds of step runs, and the instruction a step executes (R302, R306,
R720). -/

namespace Sys2Proof.Machine

/-! ## The step-start selection -/

/-- A pending reset comes first (R302). -/
theorem stepKind_reset {c : Cpu} (reset : c.resetPending = true) : stepKind c = .resetSequence := by
  simp [stepKind, reset]

/-- Else a jammed CPU idles (R302, R305). -/
theorem stepKind_jammed {c : Cpu} (reset : c.resetPending = false) (jammed : c.jammed = true) :
    stepKind c = .jammedIdle := by
  simp [stepKind, reset, jammed]

/-- Else a pending NMI is taken, whatever I is (R302, R871). -/
theorem stepKind_nmi {c : Cpu} (reset : c.resetPending = false) (jammed : c.jammed = false)
    (nmi : c.nmiPending = true) : stepKind c = .interrupt .nmi := by
  simp [stepKind, reset, jammed, nmi]

/-- Else an asserted IRQ is taken where I is clear (R302, R871). -/
theorem stepKind_irq {c : Cpu} (reset : c.resetPending = false) (jammed : c.jammed = false)
    (nmi : c.nmiPending = false) (irq : c.irqIn = true) (enabled : c.flagI = false) :
    stepKind c = .interrupt .irq := by
  simp [stepKind, reset, jammed, nmi, irq, enabled]

/-- Else an instruction is fetched (R302). -/
theorem stepKind_instruction {c : Cpu} (reset : c.resetPending = false) (jammed : c.jammed = false)
    (nmi : c.nmiPending = false) (irq : c.irqIn = false ∨ c.flagI = true) :
    stepKind c = .instruction := by
  have noIrq : (c.irqIn && !c.flagI) = false := by
    rcases irq with off | masked
    · rw [off, Bool.false_and]
    · rw [masked, Bool.not_true, Bool.and_false]
  simp [stepKind, reset, jammed, nmi, noIrq]

/-! ## The round of each kind -/

theorem cpuRound_reset {s : State} (h : stepKind s.cpu = .resetSequence) :
    cpuRound s = .next (finishRound (settle resetSequence s)) := by rw [cpuRound, h]

theorem cpuRound_jammed {s : State} (h : stepKind s.cpu = .jammedIdle) :
    cpuRound s = .next (finishRound (settle jammedIdle s)) := by rw [cpuRound, h]

theorem cpuRound_interrupt {s : State} {i : Interrupt} (h : stepKind s.cpu = .interrupt i) :
    cpuRound s = .next (finishRound (settle (interruptEntry i) s)) := by rw [cpuRound, h]

theorem cpuRound_instruction {s t u : State} {i : Instr} (h : stepKind s.cpu = .instruction)
    (fetched : fetchInstr s = .ok i t) (executed : exec i t = .next u) :
    cpuRound s = .next (finishRound u) := by
  rw [cpuRound, h]
  dsimp only
  rw [fetched]
  dsimp only
  rw [executed]

/-- Settles O6: each clause is the selection of its kind, and the round that kind runs. -/
theorem stepStartSelection : Obligations.StepStartSelection := fun _ =>
  ⟨fun reset => cpuRound_reset (stepKind_reset reset),
    fun reset jammed => cpuRound_jammed (stepKind_jammed reset jammed),
    fun reset jammed nmi => cpuRound_interrupt (stepKind_nmi reset jammed nmi),
    fun reset jammed nmi irq enabled => cpuRound_interrupt (stepKind_irq reset jammed nmi irq enabled),
    stepKind_instruction⟩

/-! ## The instruction a step executes -/

/-- A step whose boundary leaves the loop running, with no active stall, is a CPU round (R720). -/
theorem step_eq_cpuRound {s : State} (noFault : s.sched.fault = none) (before : s.sched.run = .running)
    (running : (boundary s).sched.run = .running)
    (noStall : (takeStall s.clock (boundary s).sched.stalls).1 = none) :
    step s = cpuRound (startRound (boundary s)) := by
  rw [← boundary_clock s] at noStall
  simp only [step, iterate, noFault, before, running, noStall]

/-- What the step fetches where it executes an instruction (R306, R310). -/
theorem Executes.fetchInstr_eq {s : State} {i : Instr} (h : Executes s i) :
    fetchInstr (startRound (boundary s)) = .ok i s.atExecution := by
  obtain ⟨rest, decodes⟩ := h.decodes
  exact fetchInstr_plain (s := startRound (boundary s)) h.plain decodes

/-- A step that executes an instruction ends the CPU round from the state the instruction answers (R720). -/
theorem Executes.step_eq {s u : State} {i : Instr} (h : Executes s i)
    (executed : exec i s.atExecution = .next u) : step s = .next (finishRound u) :=
  calc step s = cpuRound (startRound (boundary s)) :=
        step_eq_cpuRound h.noFault h.before h.running h.noStall
    _ = .next (finishRound u) := cpuRound_instruction h.kind h.fetchInstr_eq executed

/-- Settles O5: the instruction answers a next state, and the round ends from there. -/
theorem stepRunsDecodedInstruction : Obligations.StepRunsDecodedInstruction := by
  intro s i executes
  obtain ⟨u, executed⟩ := exec_next i s.atExecution
  rw [executes.step_eq executed, executed]

end Sys2Proof.Machine
end

section
/-! The reset sequence (R304). -/

namespace Sys2Proof.Machine

/-- The accesses and the CPU of the reset sequence: seven reads one after another, S moved down in between
(R304). -/
theorem resetSequence_completes {s : State} (hp : s.production) (hc : s.canonical) :
    Completes resetSequence s fun _ t => ∃ d e f g h lo hi,
      s.ReadsAfter [] 0xFFFC#16 lo ∧ s.ReadsAfter [] 0xFFFD#16 hi
      ∧ Ran s [] [readRec s 0 .dummy s.cpu.pc d, readRec s 1 .dummy s.cpu.pc e,
          readRec s 2 .dummy (stackAddr s.cpu.s) f, readRec s 3 .dummy (stackAddr (s.cpu.s - 1#8)) g,
          readRec s 4 .dummy (stackAddr (s.cpu.s - 2#8)) h,
          readRec s 5 .vector 0xFFFC#16 lo, readRec s 6 .vector 0xFFFD#16 hi]
        { s.cpu with
          s := s.cpu.s - 3#8
          flagI := true
          pc := mkWord hi lo
          resetPending := false
          jammed := false
          nmiPending := false } t := by
  have two : s.cpu.s - 1#8 - 1#8 = s.cpu.s - 2#8 := by bv_omega
  have three : s.cpu.s - 2#8 - 1#8 = s.cpu.s - 3#8 := by bv_omega
  refine ((Ran.refl hc).dummyPc hp).bind fun _ _ ⟨d, h1⟩ => (h1.dummyPc hp).bind fun _ _ ⟨e, h2⟩ => ?_
  refine (h2.resetPush hp).bind fun _ _ ⟨f, h3⟩ => (h3.resetPush hp).bind fun _ _ ⟨g, h4⟩ => ?_
  rw [two] at h4
  refine (h4.resetPush hp).bind fun _ _ ⟨h, h5⟩ => ?_
  rw [three] at h5
  refine (h5.updCpu fun c => { c with flagI := true }).bind fun _ _ h6 => ?_
  refine (h6.memRead hp .vector Config.resetVector).bind fun lo _ ⟨h7, readLo⟩ => ?_
  refine (h7.memRead hp .vector (Config.resetVector + 1#16)).bind fun hi _ ⟨h8, readHi⟩ => ?_
  exact (h8.updCpu _).mono fun _ _ h9 => ⟨d, e, f, g, h, lo, hi, readLo, readHi, h9⟩

/-- Settles O37, by the accesses of the sequence. -/
theorem resetSequenceRuns : Obligations.ResetSequenceRuns := by
  intro s hp hc
  obtain ⟨⟨⟩, t, ht, d, e, f, g, h, lo, hi, readLo, readHi, ran⟩ := resetSequence_completes hp hc
  exact ⟨d, e, f, g, h, lo, hi, t, ht, readLo, readHi, ran⟩

end Sys2Proof.Machine
end

section
/-! Cycle counts (R303, R345): how many bus accesses each part of an instruction makes, said once for each
operation, template and class, and from them the count of every instruction. -/

namespace Sys2Proof.Machine

/-! ## Counting accesses -/

/-- From `s` to `t` the CPU made `n` bus accesses, one cycle each. -/
def Made (s : State) (n : Nat) (t : State) : Prop := ∃ ws recs c, Ran s ws recs c t ∧ recs.length = n

/-- A part that ran made the accesses it recorded. -/
theorem Ran.made {s t : State} {ws : List (Word × Byte)} {recs : List AccessRecord} {c : Cpu}
    (h : Ran s ws recs c t) : Made s recs.length t := ⟨ws, recs, c, h, rfl⟩

/-- So did a part that only read. -/
theorem RanReads.made {s t : State} {recs : List AccessRecord} (h : RanReads s recs t)
    (hc : s.canonical) : Made s recs.length t := (h.ran hc).made

theorem Made.trans {s t u : State} {m n : Nat} (h : Made s m t) (k : Made t n u) : Made s (m + n) u := by
  obtain ⟨ws, recs, c, ran, rfl⟩ := h
  obtain ⟨ws', recs', c', ran', rfl⟩ := k
  exact ⟨_, _, _, ran.trans ran', List.length_append⟩

theorem Made.cycle {s t : State} {n : Nat} (h : Made s n t) : t.cycle = s.cycle + n := by
  obtain ⟨ws, recs, c, ran, rfl⟩ := h
  exact ran.cycle

theorem Made.busOnly {s t : State} {n : Nat} (h : Made s n t) : BusOnly s t :=
  have ⟨_, _, _, ran, _⟩ := h
  ran.frame.others

theorem Made.canonical {s t : State} {n : Nat} (h : Made s n t) : t.canonical :=
  have ⟨_, _, _, ran, _⟩ := h
  ran.frame.canonical

/-- From `s`, where it is a production machine, `p` completes and makes `n` accesses. -/
def AccessesFrom {α : Type} (s : State) (n : Nat) (p : M α) : Prop :=
  s.production → s.canonical → Completes p s fun _ t => Made s n t

/-- `p` makes `n` accesses from every state. -/
def Accesses {α : Type} (n : Nat) (p : M α) : Prop := ∀ s, AccessesFrom s n p

variable {α β : Type} {s : State}

/-- A sequence makes the accesses of both parts, where those of the second do not depend on the first. -/
theorem AccessesFrom.bind {m n k : Nat} {p : M α} {f : α → M β} (h : AccessesFrom s m p)
    (h' : ∀ a, Accesses n (f a)) (sum : m + n = k := by rfl) : AccessesFrom s k (p >>= f) := by
  subst sum
  exact fun hp hc => (h hp hc).bind fun a t made =>
    (h' a t (made.busOnly.production hp) made.canonical).mono fun _ _ => made.trans

/-- The same from every state. -/
theorem Accesses.bind {m n k : Nat} {p : M α} {f : α → M β} (h : Accesses m p)
    (h' : ∀ a, Accesses n (f a)) (sum : m + n = k := by rfl) : Accesses k (p >>= f) :=
  fun s => (h s).bind h' sum

/-- Looking at the CPU makes no access, and what follows may depend on the CPU. -/
theorem AccessesFrom.getCpu_bind {n : Nat} {f : Cpu → M α} (h : AccessesFrom s n (f s.cpu)) :
    AccessesFrom s n (getCpu >>= f) := h

/-! ## Operations -/

theorem accesses_pure (a : α) : Accesses 0 (pure a : M α) := fun _ _ hc =>
  Completes.pure (Ran.refl hc).made

theorem accesses_getCpu : Accesses 0 getCpu := fun _ _ hc => Completes.getCpu (Ran.refl hc).made

theorem accesses_getConfig : Accesses 0 getConfig := fun _ _ hc => Completes.getConfig (Ran.refl hc).made

theorem accesses_updCpu (f : Cpu → Cpu) : Accesses 0 (updCpu f) := fun _ _ hc =>
  Completes.updCpu ((Ran.refl hc).mapCpu f).made

theorem accesses_stepCpu (f : Cpu → Byte × Cpu) : Accesses 0 (stepCpu f) := fun _ _ hc =>
  ⟨_, _, rfl, ((Ran.refl hc).mapCpu fun c => (f c).2).made⟩

theorem accesses_jumpTo (w : Word) : Accesses 0 (jumpTo w) := accesses_updCpu _

theorem accesses_memRead (kind : AccessKind) (a : Word) : Accesses 1 (memRead kind a) := fun _ hp hc =>
  (memRead_completes hp kind a).mono fun _ _ ⟨ran, _⟩ => ran.made hc

theorem accesses_memWrite (kind : AccessKind) (a : Word) (v : Byte) : Accesses 1 (memWrite kind a v) :=
  fun _ hp hc => (memWrite_completes hp hc kind a v).mono fun _ _ ran => ran.made

theorem accesses_dummyRead (a : Word) : Accesses 1 (dummyRead a) :=
  (accesses_memRead .dummy a).bind fun _ => accesses_pure _

theorem accesses_dummyPc : Accesses 1 dummyPc := accesses_getCpu.bind fun _ => accesses_dummyRead _

theorem accesses_dummyStack : Accesses 1 dummyStack := accesses_getCpu.bind fun _ => accesses_dummyRead _

theorem accesses_fetch : Accesses 1 fetch := fun _ hp hc =>
  (fetchKind_completes hp hc .operand).mono fun _ _ ⟨ran, _⟩ => ran.made

theorem accesses_push (v : Byte) : Accesses 1 (push v) := fun _ hp hc =>
  (push_completes hp hc v).mono fun _ _ ran => ran.made

theorem accesses_pull : Accesses 1 pull := fun _ hp hc =>
  (pull_completes hp hc).mono fun _ _ ⟨ran, _⟩ => ran.made

/-! ## Templates -/

/-- The addresses of one byte are page zero. -/
theorem hiByte_zext16 (b : Byte) : hiByte (zext16 b) = 0#8 := by
  have := b.isLt
  refine BitVec.eq_of_toNat_eq ?_
  rw [toNat_hiByte, toNat_zext16, BitVec.toNat_ofNat]
  omega

theorem accesses_pointerX (b1 : Byte) : Accesses 3 (pointerX b1) :=
  accesses_getCpu.bind fun _ => (accesses_dummyRead _).bind fun _ =>
    (accesses_memRead _ _).bind fun _ => (accesses_memRead _ _).bind fun _ => accesses_pure _

theorem accesses_pointerY (b1 : Byte) : Accesses 2 (pointerY b1) :=
  (accesses_memRead _ _).bind fun _ => (accesses_memRead _ _).bind fun _ => accesses_pure _

theorem accesses_addrZp (b1 : Byte) : Accesses 0 (addrZp b1) := accesses_pure _

theorem accesses_addrAbs (w : Word) : Accesses 0 (addrAbs w) := accesses_pure _

theorem accesses_addrZpx (b1 : Byte) : Accesses 1 (addrZpx b1) :=
  accesses_getCpu.bind fun _ => (accesses_dummyRead _).bind fun _ => accesses_pure _

theorem accesses_addrZpy (b1 : Byte) : Accesses 1 (addrZpy b1) :=
  accesses_getCpu.bind fun _ => (accesses_dummyRead _).bind fun _ => accesses_pure _

theorem accesses_addrIndexed (ix : Indexed) : Accesses 1 (addrIndexed ix) :=
  (accesses_dummyRead _).bind fun _ => accesses_pure _

theorem accesses_addrAbsx (w : Word) : Accesses 1 (addrAbsx w) :=
  accesses_getCpu.bind fun _ => accesses_addrIndexed _

theorem accesses_addrAbsy (w : Word) : Accesses 1 (addrAbsy w) :=
  accesses_getCpu.bind fun _ => accesses_addrIndexed _

theorem accesses_addrIndx (b1 : Byte) : Accesses 3 (addrIndx b1) := accesses_pointerX b1

theorem accesses_addrIndy (b1 : Byte) : Accesses 3 (addrIndy b1) :=
  accesses_getCpu.bind fun _ => (accesses_pointerY b1).bind fun _ => accesses_addrIndexed _

theorem accesses_readImm (b1 : Byte) : Accesses 0 (readImm b1) := accesses_pure _

theorem accesses_readAt {n : Nat} {ea : M Word} (h : Accesses n ea) : Accesses (n + 1) (readAt ea) :=
  h.bind fun _ => accesses_memRead _ _

/-- The cycle a page crossing costs an indexed read (R320, R322). -/
def crossingCycles (lo r : Byte) : Nat := if crosses lo r then 1 else 0

/-- An indexed read makes a second access where it crosses a page (R320, R322). -/
theorem accesses_readIndexed (base : Word) (r : Byte) :
    Accesses (1 + crossingCycles (loByte base) r) (readIndexed (indexed base r)) := by
  refine (accesses_memRead _ _).bind fun _ => ?_
  rw [indexed_cross, crossingCycles]
  split
  · exact accesses_memRead _ _
  · exact accesses_pure _

theorem accesses_readAbsx (w : Word) :
    AccessesFrom s (1 + crossingCycles (loByte w) s.cpu.x) (readAbsx w) :=
  AccessesFrom.getCpu_bind (accesses_readIndexed w s.cpu.x s)

theorem accesses_readAbsy (w : Word) :
    AccessesFrom s (1 + crossingCycles (loByte w) s.cpu.y) (readAbsy w) :=
  AccessesFrom.getCpu_bind (accesses_readIndexed w s.cpu.y s)

/-- The low byte of the pointer, which decides the crossing, is the one the store holds (R322). -/
theorem accesses_readIndy (b1 : Byte) (plain : s.plain (zext16 b1)) :
    AccessesFrom s (3 + crossingCycles (s.peek (zext16 b1)) s.cpu.y) (readIndy b1) := by
  refine AccessesFrom.getCpu_bind fun hp hc => (pointerY_completes hp b1).bind ?_
  rintro _ t ⟨lo, hi, rfl, hlo, -, ran⟩
  obtain rfl := hlo.peek plain
  have pointer : Made s 2 t := ran.made hc
  have read := accesses_readIndexed (mkWord hi (s.peek (zext16 b1))) s.cpu.y t
    (pointer.busOnly.production hp) pointer.canonical
  rw [loByte_mkWord] at read
  exact read.mono fun _ _ made => by
    rw [show 3 = 2 + 1 from rfl, Nat.add_assoc]
    exact pointer.trans made

/-! ## Classes -/

theorem AccessesFrom.readClass {n : Nat} {p : M Byte} {op : Byte → Cpu → Cpu} (h : AccessesFrom s n p) :
    AccessesFrom s n (readClass p op) := h.bind fun _ => accesses_updCpu _

theorem Accesses.writeClass {n : Nat} {ea : M Word} {v : Cpu → Byte} (h : Accesses n ea) :
    Accesses (n + 1) (writeClass ea v) :=
  h.bind fun _ => accesses_getCpu.bind fun _ => accesses_memWrite _ _ _

theorem Accesses.rmwClass {n : Nat} {ea : M Word} {f : Byte → Cpu → Byte × Cpu}
    {g : Byte → Cpu → Cpu} (h : Accesses n ea) : Accesses (n + 3) (rmwClass ea f g) :=
  h.bind fun _ => (accesses_memRead _ _).bind fun _ => (accesses_memWrite _ _ _).bind fun _ =>
    (accesses_stepCpu _).bind fun _ => (accesses_memWrite _ _ _).bind fun _ => accesses_updCpu _

theorem accesses_impliedClass {op : Cpu → Cpu} : Accesses 1 (impliedClass op) :=
  accesses_dummyPc.bind fun _ => accesses_updCpu _

theorem accesses_pushClass {v : Cpu → Byte} : Accesses 2 (pushClass v) :=
  accesses_dummyPc.bind fun _ => accesses_getCpu.bind fun _ => accesses_push _

theorem accesses_pullClass {op : Byte → Cpu → Cpu} : Accesses 3 (pullClass op) :=
  accesses_dummyPc.bind fun _ => accesses_dummyStack.bind fun _ => accesses_pull.bind fun _ =>
    accesses_updCpu _

/-- The cycles a taken branch costs: one, and one more where it leaves the page (R340, R520). -/
def branchCycles (taken : Bool) (pc : Word) (off : Byte) : Nat :=
  if taken then (if hiByte (pc + sext16 off) = hiByte pc then 1 else 2) else 0

theorem accesses_branchClass (cond : Cpu → Bool) (off : Byte) :
    AccessesFrom s (branchCycles (cond s.cpu) s.cpu.pc off) (branchClass cond off) := by
  refine AccessesFrom.getCpu_bind ?_
  dsimp only
  unfold branchCycles
  split
  · split
    · exact ((accesses_dummyRead _).bind fun _ => accesses_jumpTo _) s
    · exact ((accesses_dummyRead _).bind fun _ => (accesses_dummyRead _).bind fun _ =>
        accesses_jumpTo _) s
  · exact accesses_pure _ s

theorem accesses_storeHigh (ix : Indexed) (reg : Cpu → Byte) : Accesses 1 (storeHigh ix reg) :=
  accesses_getConfig.bind fun _ => accesses_getCpu.bind fun _ => accesses_memWrite _ _ _

theorem accesses_highStoreAbs {w : Word} {index reg : Cpu → Byte} :
    Accesses 2 (highStoreAbs w index reg) :=
  accesses_getCpu.bind fun _ => (accesses_addrIndexed _).bind fun _ => accesses_storeHigh _ _

theorem accesses_highStoreInd {b1 : Byte} {reg : Cpu → Byte} : Accesses 4 (highStoreInd b1 reg) :=
  accesses_getCpu.bind fun _ => (accesses_pointerY _).bind fun _ =>
    (accesses_addrIndexed _).bind fun _ => accesses_storeHigh _ _

theorem accesses_transferAndStore {w : Word} : Accesses 2 (transferAndStore w) :=
  accesses_getCpu.bind fun _ => (accesses_addrIndexed _).bind fun _ => (accesses_updCpu _).bind fun _ =>
    accesses_storeHigh _ _

theorem accesses_jumpIndirect {w : Word} : Accesses 2 (jumpIndirect w) :=
  (accesses_memRead _ _).bind fun _ => (accesses_memRead _ _).bind fun _ => accesses_jumpTo _

theorem accesses_jumpSubroutine {w : Word} : Accesses 4 (jumpSubroutine w) :=
  accesses_dummyStack.bind fun _ => accesses_getCpu.bind fun _ => (accesses_push _).bind fun _ =>
    (accesses_push _).bind fun _ => (accesses_memRead _ _).bind fun _ => accesses_jumpTo _

theorem accesses_returnSubroutine : Accesses 5 returnSubroutine :=
  accesses_dummyPc.bind fun _ => accesses_dummyStack.bind fun _ => accesses_pull.bind fun _ =>
    accesses_pull.bind fun _ => (accesses_jumpTo _).bind fun _ => accesses_dummyPc.bind fun _ =>
      accesses_jumpTo _

theorem accesses_returnFromException : Accesses 3 returnFromException :=
  accesses_pull.bind fun _ => (accesses_updCpu _).bind fun _ => accesses_pull.bind fun _ =>
    accesses_pull.bind fun _ => accesses_jumpTo _

theorem accesses_returnInterrupt : Accesses 5 returnInterrupt :=
  accesses_dummyPc.bind fun _ => accesses_dummyStack.bind fun _ => accesses_returnFromException

theorem accesses_takeException (b : Bool) (vector : Word) : Accesses 5 (takeException b vector) :=
  accesses_getCpu.bind fun _ => (accesses_push _).bind fun _ => (accesses_push _).bind fun _ =>
    accesses_getCpu.bind fun _ => (accesses_push _).bind fun _ => (accesses_updCpu _).bind fun _ =>
      (accesses_memRead _ _).bind fun _ => (accesses_memRead _ _).bind fun _ => accesses_jumpTo _

theorem accesses_softwareInterrupt : Accesses 6 softwareInterrupt :=
  accesses_fetch.bind fun _ => accesses_takeException _ _

/-! ## Instructions -/

/-- From `s` the instruction `i` answers a next state, and with its `1 + fetchedOperands` fetches it makes
its base count of accesses and those of R345 beyond it. -/
def Counted (s : State) (i : Instr) : Prop :=
  ∃ n t, exec i s = .next t ∧ Made s n t
    ∧ n + (1 + fetchedOperands i.opcode) = i.baseCycles + extraCycles i s

/-- Where no page crossing has a penalty and no branch is taken, nothing comes beyond the base count. -/
theorem extraCycles_eq_zero {i : Instr} (penalty : i.pagePenalty = false) (notBranch : i.mode ≠ .rel) :
    extraCycles i s = 0 := by
  unfold extraCycles
  split
  case h_4 mode _ => exact absurd mode notBranch
  all_goals simp [penalty]

/-- An instruction is counted where its part makes `n` accesses and the extra ones, and `n` and the fetches
are the base count. -/
theorem counted_of {i : Instr} {p : M Unit} (hp : s.production) (hc : s.canonical) {n extra : Nat}
    (executed : exec i s = outcome p s) (h : AccessesFrom s (n + extra) p)
    (base : n + (1 + fetchedOperands i.opcode) = i.baseCycles) (extraEq : extraCycles i s = extra) :
    Counted s i := by
  obtain ⟨t, ht, made⟩ := outcome_of_completes (h hp hc)
  exact ⟨_, t, executed.trans ht, made, by omega⟩

/-- An instruction whose part always makes the same accesses. -/
theorem fixed_counted {i : Instr} {p : M Unit} (hp : s.production) (hc : s.canonical) (n : Nat)
    (h : AccessesFrom s n p) (executed : exec i s = outcome p s := by rfl)
    (base : n + (1 + fetchedOperands i.opcode) = i.baseCycles := by
      dsimp only [Instr.baseCycles, Instr.opcode]; rfl)
    (penalty : i.pagePenalty = false := by dsimp only [Instr.pagePenalty, Instr.opcode]; rfl)
    (notBranch : i.mode ≠ .rel := by dsimp only [Instr.mode]; nofun) : Counted s i :=
  counted_of (extra := 0) hp hc executed h base (extraCycles_eq_zero penalty notBranch)

/-- An instruction whose part makes one access more where its index addition crosses a page (R320, R322). -/
theorem crossing_counted {i : Instr} {p : M Unit} {n : Nat} {lo r : Byte} (hp : s.production)
    (hc : s.canonical) (h : AccessesFrom s (n + crossingCycles lo r) p)
    (executed : exec i s = outcome p s := by rfl)
    (extra : extraCycles i s = if i.pagePenalty && crosses lo r then 1 else 0 := by rfl)
    (base : n + (1 + fetchedOperands i.opcode) = i.baseCycles := by
      dsimp only [Instr.baseCycles, Instr.opcode]; rfl)
    (penalty : i.pagePenalty = true := by dsimp only [Instr.pagePenalty, Instr.opcode]; rfl) :
    Counted s i :=
  counted_of hp hc executed h base (by rw [extra, penalty]; rfl)

/-- A branch: its two fetches are its base count (R340, R520). -/
theorem branch_counted {i : Instr} {cond : Cpu → Bool} {off : Byte} (hp : s.production)
    (hc : s.canonical) (executed : exec i s = outcome (branchClass cond off) s)
    (extra : extraCycles i s = branchCycles (cond s.cpu) s.cpu.pc off := by rfl)
    (base : 0 + (1 + fetchedOperands i.opcode) = i.baseCycles := by
      dsimp only [Instr.baseCycles, Instr.opcode]; rfl) : Counted s i :=
  counted_of hp hc executed (by rw [Nat.zero_add]; exact accesses_branchClass cond off) base extra

/-- Every instruction is counted where page zero is in stores. -/
theorem exec_counted (i : Instr) (hp : s.production) (hc : s.canonical)
    (pageZero : ∀ a : Word, hiByte a = 0#8 → s.plain a) : Counted s i := by
  have plain : ∀ b : Byte, s.plain (zext16 b) := fun b => pageZero _ (hiByte_zext16 b)
  cases i with
  | brk =>
    exact fixed_counted hp hc 6 (accesses_softwareInterrupt s)
  | oraIndx _ | andIndx _ | eorIndx _ | adcIndx _ | ldaIndx _ | laxIndx _ | cmpIndx _ | sbcIndx _ =>
    exact fixed_counted hp hc 4 (accesses_readAt (accesses_addrIndx _) s).readClass
  | jam02 | jam12 | clc | nop1A | jam22 | jam32 | sec | nop3A | jam42 | jam52 | cli | nop5A | jam62
  | jam72 | sei | nop7A | dey | txa | jam92 | tya | txs | tay | tax | jamB2 | clv | tsx | iny | dex
  | jamD2 | cld | nopDA | inx | nop | jamF2 | sed | nopFA =>
    exact fixed_counted hp hc 1 (accesses_impliedClass s)
  | sloIndx _ | rlaIndx _ | sreIndx _ | rraIndx _ | dcpIndx _ | iscIndx _ =>
    exact fixed_counted hp hc 6 ((accesses_addrIndx _).rmwClass s)
  | nopZp04 _ | oraZp _ | bitZp _ | andZp _ | nopZp44 _ | eorZp _ | nopZp64 _ | adcZp _ | ldyZp _
  | ldaZp _ | ldxZp _ | laxZp _ | cpyZp _ | cmpZp _ | cpxZp _ | sbcZp _ =>
    exact fixed_counted hp hc 1 (accesses_readAt (accesses_addrZp _) s).readClass
  | aslZp _ | sloZp _ | rolZp _ | rlaZp _ | lsrZp _ | sreZp _ | rorZp _ | rraZp _ | decZp _
  | dcpZp _ | incZp _ | iscZp _ =>
    exact fixed_counted hp hc 3 ((accesses_addrZp _).rmwClass s)
  | php | pha =>
    exact fixed_counted hp hc 2 (accesses_pushClass s)
  | oraImm _ | ancImm0B _ | andImm _ | ancImm2B _ | eorImm _ | alrImm _ | adcImm _ | arrImm _
  | nopImm80 _ | nopImm82 _ | nopImm89 _ | aneImm _ | ldyImm _ | ldxImm _ | ldaImm _ | lxaImm _
  | cpyImm _ | nopImmC2 _ | cmpImm _ | sbxImm _ | cpxImm _ | nopImmE2 _ | sbcImm _ | usbcImm _ =>
    exact fixed_counted hp hc 0 (accesses_readImm _ s).readClass
  | aslAcc | rolAcc | lsrAcc | rorAcc =>
    exact fixed_counted hp hc 1 (accesses_impliedClass s)
  | nopAbs _ | oraAbs _ | bitAbs _ | andAbs _ | eorAbs _ | adcAbs _ | ldyAbs _ | ldaAbs _
  | ldxAbs _ | laxAbs _ | cpyAbs _ | cmpAbs _ | cpxAbs _ | sbcAbs _ =>
    exact fixed_counted hp hc 1 (accesses_readAt (accesses_addrAbs _) s).readClass
  | aslAbs _ | sloAbs _ | rolAbs _ | rlaAbs _ | lsrAbs _ | sreAbs _ | rorAbs _ | rraAbs _
  | decAbs _ | dcpAbs _ | incAbs _ | iscAbs _ =>
    exact fixed_counted hp hc 3 ((accesses_addrAbs _).rmwClass s)
  | bplRel _ | bmiRel _ | bvcRel _ | bvsRel _ | bccRel _ | bcsRel _ | bneRel _ | beqRel _ =>
    exact branch_counted hp hc rfl
  | oraIndy b1 | andIndy b1 | eorIndy b1 | adcIndy b1 | ldaIndy b1 | laxIndy b1 | cmpIndy b1
  | sbcIndy b1 =>
    exact crossing_counted hp hc (accesses_readIndy b1 (plain b1)).readClass
  | sloIndy _ | rlaIndy _ | sreIndy _ | rraIndy _ | dcpIndy _ | iscIndy _ =>
    exact fixed_counted hp hc 6 ((accesses_addrIndy _).rmwClass s)
  | nopZpx14 _ | oraZpx _ | nopZpx34 _ | andZpx _ | nopZpx54 _ | eorZpx _ | nopZpx74 _ | adcZpx _
  | ldyZpx _ | ldaZpx _ | nopZpxD4 _ | cmpZpx _ | nopZpxF4 _ | sbcZpx _ =>
    exact fixed_counted hp hc 2 (accesses_readAt (accesses_addrZpx _) s).readClass
  | aslZpx _ | sloZpx _ | rolZpx _ | rlaZpx _ | lsrZpx _ | sreZpx _ | rorZpx _ | rraZpx _
  | decZpx _ | dcpZpx _ | incZpx _ | iscZpx _ =>
    exact fixed_counted hp hc 4 ((accesses_addrZpx _).rmwClass s)
  | oraAbsy _ | andAbsy _ | eorAbsy _ | adcAbsy _ | ldaAbsy _ | lasAbsy _ | ldxAbsy _ | laxAbsy _
  | cmpAbsy _ | sbcAbsy _ =>
    exact crossing_counted hp hc (accesses_readAbsy _).readClass
  | sloAbsy _ | rlaAbsy _ | sreAbsy _ | rraAbsy _ | dcpAbsy _ | iscAbsy _ =>
    exact fixed_counted hp hc 4 ((accesses_addrAbsy _).rmwClass s)
  | nopAbsx1C _ | oraAbsx _ | nopAbsx3C _ | andAbsx _ | nopAbsx5C _ | eorAbsx _ | nopAbsx7C _
  | adcAbsx _ | ldyAbsx _ | ldaAbsx _ | nopAbsxDC _ | cmpAbsx _ | nopAbsxFC _ | sbcAbsx _ =>
    exact crossing_counted hp hc (accesses_readAbsx _).readClass
  | aslAbsx _ | sloAbsx _ | rolAbsx _ | rlaAbsx _ | lsrAbsx _ | sreAbsx _ | rorAbsx _ | rraAbsx _
  | decAbsx _ | dcpAbsx _ | incAbsx _ | iscAbsx _ =>
    exact fixed_counted hp hc 4 ((accesses_addrAbsx _).rmwClass s)
  | jsrAbs _ =>
    exact fixed_counted hp hc 4 (accesses_jumpSubroutine s)
  | plp | pla =>
    exact fixed_counted hp hc 3 (accesses_pullClass s)
  | rti =>
    exact fixed_counted hp hc 5 (accesses_returnInterrupt s)
  | jmpAbs w =>
    exact fixed_counted hp hc 0 (accesses_jumpTo w s)
  | rts =>
    exact fixed_counted hp hc 5 (accesses_returnSubroutine s)
  | jmpInd _ =>
    exact fixed_counted hp hc 2 (accesses_jumpIndirect s)
  | staIndx _ | saxIndx _ =>
    exact fixed_counted hp hc 4 ((accesses_addrIndx _).writeClass s)
  | styZp _ | staZp _ | stxZp _ | saxZp _ =>
    exact fixed_counted hp hc 1 ((accesses_addrZp _).writeClass s)
  | styAbs _ | staAbs _ | stxAbs _ | saxAbs _ =>
    exact fixed_counted hp hc 1 ((accesses_addrAbs _).writeClass s)
  | staIndy _ =>
    exact fixed_counted hp hc 4 ((accesses_addrIndy _).writeClass s)
  | shaIndy _ =>
    exact fixed_counted hp hc 4 (accesses_highStoreInd s)
  | styZpx _ | staZpx _ =>
    exact fixed_counted hp hc 2 ((accesses_addrZpx _).writeClass s)
  | stxZpy _ | saxZpy _ =>
    exact fixed_counted hp hc 2 ((accesses_addrZpy _).writeClass s)
  | staAbsy _ =>
    exact fixed_counted hp hc 2 ((accesses_addrAbsy _).writeClass s)
  | tasAbsy _ =>
    exact fixed_counted hp hc 2 (accesses_transferAndStore s)
  | shyAbsx _ | shxAbsy _ | shaAbsy _ =>
    exact fixed_counted hp hc 2 (accesses_highStoreAbs s)
  | staAbsx _ =>
    exact fixed_counted hp hc 2 ((accesses_addrAbsx _).writeClass s)
  | ldxZpy _ | laxZpy _ =>
    exact fixed_counted hp hc 2 (accesses_readAt (accesses_addrZpy _) s).readClass

/-- Settles O29: every instruction is counted, and each access takes one cycle. -/
theorem cycleCounts : Obligations.CycleCounts := by
  intro i s t hp hc pageZero executed
  obtain ⟨n, u, hu, made, count⟩ := exec_counted i hp hc pageZero
  obtain rfl := Host.Outcome.next.inj (hu.symm.trans executed)
  rw [made.cycle, Nat.add_assoc, count, Nat.add_assoc]

end Sys2Proof.Machine
end

section
/-! The end of a CPU round: the cycles of the step pass once for the clock and for every chip (R720, R722 to
R725), and what an instruction's step ends with (R345). -/

namespace Sys2Proof.Machine

/-! ## The end of a round -/

/-- With no fault and room on the clock, the cycles of the step pass: the clock moves, every chip ticks, the
lines are resolved (R720, R722 to R725). -/
theorem finishRound_ticks {u : State} (hp : u.production) (noFault : u.sched.fault = none)
    (room : u.clock + u.cycle < 2 ^ 64) :
    ∃ v, finishRound u = (resolveLines v).setCycle 0
      ∧ Aside { u with clock := u.clock + u.cycle } v
      ∧ tickAll none u.clock u.cycle u.config.chipOrder { u with clock := u.clock + u.cycle } = .ok () v
      ∧ (u.config.chipOrder = List.range u.config.chips.length →
        TicksOnce none u.clock u.cycle { u with clock := u.clock + u.cycle } v) := by
  obtain ⟨v, passed, aside, ticked, once⟩ := passCycles_ticks hp none room
  refine ⟨v, ?_, aside, ticked, once⟩
  rw [finishRound, noFault]
  dsimp only
  rw [settle, bind_ok passed]
  rfl

/-- With no room on the clock the round ends in the overflow, and nothing else changes (R54, R720). -/
theorem finishRound_overflow {u : State} (noFault : u.sched.fault = none)
    (full : 2 ^ 64 ≤ u.clock + u.cycle) : finishRound u = u.raise (.clockOverflow u.clock) := by
  have passed : passCycles none u.cycle u = .error (.clockOverflow u.clock) u := by
    show (advance u.cycle >>= _) u = _
    rw [bind_apply, advance_overflow full]
  rw [finishRound, noFault]
  dsimp only
  rw [settle, bind_apply, passed]

/-! ## The step of an instruction -/

/-- What is decoded is an instruction of the first byte (R250). -/
theorem opcode_of_decode {op : Byte} {bs rest : List Byte} {i : Instr}
    (h : decode (op :: bs) = .ok (i, rest)) : i.opcode = op := by
  have bytes := (encodeInvertsDecode _ _ _ h).1
  exact (List.cons.inj bytes).1

/-- The step fetches no more than two operand bytes (R306, R535). -/
theorem fetchedOperands_le (op : Byte) : fetchedOperands op ≤ 2 := by
  unfold fetchedOperands
  split
  · omega
  · have := (rowOf op).mode.length_cases
    omega

/-- The fetches before an execution take a cycle each (R306, R310). -/
theorem Executes.atExecution_cycle {s : State} {i : Instr} (h : Executes s i) :
    s.atExecution.cycle = 1 + fetchedOperands i.opcode := by
  obtain ⟨rest, decodes⟩ := h.decodes
  have length : (boundary s).instructionBytes.length = 1 + fetchedOperands i.opcode := by
    have := fetchedOperands_le i.opcode
    rw [State.instructionBytes, ← opcode_of_decode decodes, List.length_take]
    simp only [List.length_cons, List.length_nil]
    omega
  exact (Nat.zero_add _).trans length

/-- An executed instruction answers a state whose cycles are its count, and which has nothing else of
`BusOnly` changed (R345). -/
theorem Executes.counted {s : State} {i : Instr} (h : Executes s i) (hp : s.production)
    (hc : (boundary s).canonical) (pageZero : ∀ a : Word, hiByte a = 0#8 → (boundary s).plain a) :
    ∃ u, exec i s.atExecution = .next u ∧ BusOnly s.atExecution u
      ∧ u.cycle = i.baseCycles + extraCycles i s.atExecution := by
  have production : s.atExecution.production := (congrArg _ (boundary_config s)).trans hp
  obtain ⟨n, u, executed, made, count⟩ := exec_counted i (s := s.atExecution) production hc pageZero
  exact ⟨u, executed, made.busOnly, by rw [made.cycle, h.atExecution_cycle, ← count, Nat.add_comm]⟩

/-- Settles O30: the instruction's cycles are its count, and the end of the round passes them. -/
theorem instructionAdvancesClock : Obligations.InstructionAdvancesClock := by
  refine ⟨fun s i n executes hp hc pageZero count room => ?_, fun u hp noFault =>
    ⟨fun room order => ?_, finishRound_overflow noFault⟩⟩
  · obtain ⟨u, executed, frame, cycle⟩ := executes.counted hp hc pageZero
    have clock : u.clock = s.clock := frame.clock.trans (boundary_clock s)
    have config : u.config = s.config := frame.config.trans (boundary_config s)
    have noFault : u.sched.fault = none := frame.fault.trans ((boundary_fault s).trans executes.noFault)
    have production : u.production := (congrArg _ config).trans hp
    obtain rfl : u.cycle = n := cycle.trans count.symm
    rw [← clock] at room ⊢
    rw [← config]
    obtain ⟨v, finished, ⟨-, -, vClock, vFault⟩, -, once⟩ := finishRound_ticks production noFault room
    refine ⟨u, finishRound u, executed, executes.step_eq executed, ?_, ?_,
      fun order => ⟨v, once order, finished⟩⟩
    · rw [finished]
      exact vFault.trans noFault
    · rw [finished]
      exact vClock
  · obtain ⟨v, finished, -, -, once⟩ := finishRound_ticks hp noFault room
    exact ⟨v, once order, finished⟩

end Sys2Proof.Machine
end

section
/-! A jammed CPU (R305, R660): its steps leave every register and flag alone, and a round in which it idles
makes no access, since chips without the grant make none (R733). -/

namespace Sys2Proof.Machine

/-! ## Chips without the grant -/

/-- What a part keeps holds where it completes. -/
theorem Keeps.of_ok {α : Type} {I : State → Prop} {p : M α} {s t : State} {a : α} (h : Keeps I p)
    (run : p s = .ok a t) (hs : I s) : I t := by
  have kept := h s hs
  rwa [run] at kept

/-- A property that an exchange of a chip and a chip's reaction keep. -/
structure ChipClosed (I : State → Prop) : Prop where
  setChip : ∀ s i c, I s → I (s.setChip i c)
  react : ∀ s i base c r, I s → I (s.react i base c r)

section
variable {I : State → Prop} (hI : ChipClosed I)
include hI

theorem ChipClosed.videoEnter {s : State} (i cycle : Nat) (h : I s) : I (Machine.videoEnter i cycle s) := by
  unfold Machine.videoEnter
  split
  · exact hI.setChip _ _ _ h
  · exact h

theorem ChipClosed.videoLeave {s : State} (i : Nat) (h : I s) : I (Machine.videoLeave i s) := by
  unfold Machine.videoLeave
  split
  · exact hI.setChip _ _ _ h
  · exact h

theorem ChipClosed.timersCount {s : State} (i : Nat) (h : I s) : I (Machine.timersCount i s) := by
  unfold Machine.timersCount
  split
  · exact hI.setChip _ _ _ h
  · exact h

theorem ChipClosed.timersAssert {s : State} (i : Nat) (irq nmi : Bool) (h : I s) :
    I (Machine.timersAssert i irq nmi s) := by
  unfold Machine.timersAssert
  split
  · exact hI.setChip _ _ _ h
  · exact h

theorem ChipClosed.chipReact {s : State} (i cycle : Nat) (granted : Bool) (peeked : List Byte)
    (got : Option Byte) (h : I s) : I (Machine.chipReact i cycle granted peeked got s) := by
  unfold Machine.chipReact
  split
  · exact h
  · exact hI.react _ _ _ _ _ h

theorem ChipClosed.runDiskCells {s : State} (i cycle n : Nat) (h : I s) :
    I (Machine.runDiskCells i cycle n s) := by
  induction n generalizing s with
  | zero => exact h
  | succ n ih =>
    unfold Machine.runDiskCells
    split
    · exact ih (hI.react _ _ _ _ _ h)
    · exact h

theorem ChipClosed.diskCycle {s : State} (i cycle : Nat) (h : I s) : I (Machine.diskCycle i cycle s) := by
  unfold Machine.diskCycle
  split
  · exact hI.runDiskCells i cycle _ (hI.setChip _ _ _ h)
  · exact h

/-- Without the grant the chip-defined part of a cycle makes no bus access (R733). -/
theorem ChipClosed.coreCycle (i cycle : Nat) : Keeps I (Machine.coreCycle i cycle false) := by
  refine keeps_getState_bind fun s hs => ?_
  cases s.chips[i]? with
  | none => exact hs
  | some chip => exact hI.chipReact i cycle false _ none (hI.videoEnter i cycle hs)

/-- One tick cycle of a chip without the grant. -/
theorem ChipClosed.chipCycle (i cycle : Nat) : Keeps I (Machine.chipCycle i false cycle) := by
  refine keeps_getState_bind fun s hs => ?_
  have core := hI.coreCycle i cycle
  cases s.chips[i]? with
  | none => exact hs
  | some chip =>
    cases chip with
    | refTimer t => exact hI.setChip _ _ _ hs
    | video v c =>
      exact keeps_bind core (fun _ => keeps_updState fun _ => hI.videoLeave i) _ (hI.videoEnter i cycle hs)
    | io timers c =>
      exact keeps_bind core (fun _ => keeps_updState fun _ => hI.timersAssert i _ _) _ (hI.timersCount i hs)
    | disk r c => exact core _ (hI.diskCycle i cycle hs)
    | audio c => exact core s hs
    | other c => exact core s hs

theorem ChipClosed.tickChip (i start n : Nat) : Keeps I (Machine.tickChip i false start n) := by
  induction n generalizing start with
  | zero => exact keeps_pure _
  | succ n ih => exact keeps_bind (hI.chipCycle i start) fun _ => ih (start + 1)

/-- The ticks of an iteration that grants the bus to no chip (R733). -/
theorem ChipClosed.tickAll (start n : Nat) (order : List Nat) :
    Keeps I (Machine.tickAll none start n order) := by
  induction order with
  | nil => exact keeps_pure _
  | cons i rest ih => exact keeps_bind (hI.tickChip i start n) fun _ => ih

end

/-- The history, the mapping table and the stores are those of `b`. -/
def SameMemory (b s : State) : Prop :=
  s.history = b.history ∧ s.bus.maps = b.bus.maps ∧ s.bus.stores = b.bus.stores

/-- Chips by themselves touch none of these. -/
theorem sameMemory_chipClosed (b : State) : ChipClosed (SameMemory b) where
  setChip _ _ _ h := h
  react _ _ _ _ _ h := h

/-! ## Registers and flags -/

/-- `d` is `c` but for the interrupt inputs. -/
def OnlyInputs (c d : Cpu) : Prop := ∃ irqIn nmiIn nmiPrev nmiPending,
  d = { c with irqIn := irqIn, nmiIn := nmiIn, nmiPrev := nmiPrev, nmiPending := nmiPending }

theorem OnlyInputs.refl (c : Cpu) : OnlyInputs c c := ⟨_, _, _, _, rfl⟩

/-- The interrupt inputs of `d` are then what `d` has besides `c`. -/
theorem OnlyInputs.eq {c d : Cpu} (h : OnlyInputs c d) : d = { c with
    irqIn := d.irqIn
    nmiIn := d.nmiIn
    nmiPrev := d.nmiPrev
    nmiPending := d.nmiPending } := by
  obtain ⟨_, _, _, _, rfl⟩ := h
  rfl

/-- The resolution of the lines changes the interrupt inputs alone (R740). -/
theorem OnlyInputs.resolveLines {c : Cpu} {s : State} (h : OnlyInputs c s.cpu) :
    OnlyInputs c (resolveLines s).cpu := by
  obtain ⟨_, _, _, _, hs⟩ := h
  exact ⟨_, _, _, _, by unfold Machine.resolveLines; dsimp only; rw [hs]⟩

/-- A change that leaves the CPU aside leaves its registers alone. -/
theorem OnlyInputs.aside {c : Cpu} {s t : State} (k : Aside s t) (h : OnlyInputs c s.cpu) :
    OnlyInputs c t.cpu := by
  obtain ⟨-, cpu, -, -⟩ := k
  rwa [cpu]

/-- The cycles an iteration passes change nothing of the CPU but the interrupt inputs. -/
theorem onlyInputs_tickClosed (c : Cpu) : TickClosed (fun s => OnlyInputs c s.cpu) where
  record _ _ h := h
  handlerRead s i off t := OnlyInputs.aside (registerRead_aside i off t s)
  handlerWrite s i off t v := OnlyInputs.aside (registerWrite_aside i off t v s)
  store _ _ _ _ _ _ h := h
  fault _ _ _ _ _ _ h := h
  timer _ _ _ _ h := h
  timersCount s i := OnlyInputs.aside (timersCount_aside i s)
  timersAssert s i irq nmi := OnlyInputs.aside (timersAssert_aside i irq nmi s)
  react s i cycle granted peeked got := OnlyInputs.aside (chipReact_aside i cycle granted peeked got s)
  videoEnter s i cycle := OnlyInputs.aside (videoEnter_aside i cycle s)
  videoLeave s i := OnlyInputs.aside (videoLeave_aside i s)
  disk s i cycle := OnlyInputs.aside (diskCycle_aside i cycle s)
  advance _ _ _ h := h
  overflow _ _ h := h
  resolve _ h := h.resolveLines

/-- The end of a CPU round keeps what the cycles it passes keep. -/
theorem TickClosed.finishRound {I : State → Prop} (hI : TickClosed I) (reset : ∀ s, I s → I (s.setCycle 0))
    {s : State} (hs : I s) : I (finishRound s) := by
  unfold Machine.finishRound
  split
  · exact hs
  · exact settle_keeps (keeps_bind (keeps_passCycles hI none s.cycle) fun _ => keeps_updState reset) hs

/-! ## The steps of a jammed CPU -/

/-- A boundary after which no reset is pending honoured none, so it left the CPU alone (R750, R753). -/
theorem boundary_cpu_of_no_reset {s : State} (h : (boundary s).cpu.resetPending = false) :
    (boundary s).cpu = s.cpu := by
  revert h
  unfold boundary
  split
  · exact fun _ => rfl
  · unfold honourRequests
    split
    · exact fun h => nomatch h
    · exact fun _ => rfl

/-- The boundary makes no bus access (R750). -/
theorem boundary_history (s : State) : (boundary s).history = s.history := by
  unfold boundary
  split
  · rfl
  · unfold honourRequests
    split <;> rfl

/-- A jammed CPU's round is one idle cycle and its end (R302, R305). -/
theorem cpuRound_of_jammed {s : State} (reset : s.cpu.resetPending = false) (jammed : s.cpu.jammed = true) :
    cpuRound s = .next (finishRound (s.setCycle 1)) :=
  cpuRound_jammed (stepKind_jammed reset jammed)

/-- An iteration with a jammed CPU leaves its registers and flags alone. -/
theorem iterate_jammed {s t : State} (reset : s.cpu.resetPending = false) (jammed : s.cpu.jammed = true)
    (h : iterate s = .next t) : OnlyInputs s.cpu t.cpu := by
  have ticks := onlyInputs_tickClosed s.cpu
  have start : OnlyInputs s.cpu (startRound s).cpu := OnlyInputs.refl _
  unfold iterate at h
  split at h
  case h_1 =>
    split at h
    · rw [← Host.Outcome.next.inj h]
      exact settle_keeps (keeps_passCycles ticks _ _) start
    · rw [cpuRound_of_jammed (s := startRound s) reset jammed] at h
      rw [← Host.Outcome.next.inj h]
      exact ticks.finishRound (fun _ h => h) (s := (startRound s).setCycle 1) start
  all_goals
    rw [← Host.Outcome.next.inj h]
    exact OnlyInputs.refl _

/-- A step of a machine with a jammed CPU and no reset pending leaves its registers and flags alone (R305,
R660). -/
theorem step_jammed {s t : State} (noFault : s.sched.fault = none) (jammed : s.cpu.jammed = true)
    (reset : (boundary s).cpu.resetPending = false) (h : step s = .next t) : OnlyInputs s.cpu t.cpu := by
  have cpu := boundary_cpu_of_no_reset reset
  rw [step, noFault] at h
  dsimp only at h
  split at h
  case h_1 =>
    rw [← cpu] at jammed ⊢
    exact iterate_jammed reset jammed h
  all_goals
    rw [← Host.Outcome.next.inj h]
    exact OnlyInputs.refl _

/-- Settles O39: the round of a jammed CPU is one idle cycle, in which no chip has the grant, and the lines
are resolved after it. -/
theorem jammedUntilReset : Obligations.JammedUntilReset := by
  refine ⟨fun s t noFault jammed reset h => (step_jammed noFault jammed reset h).eq, ?_⟩
  intro s hp noFault jammed reset before running noStall room
  have cpu := boundary_cpu_of_no_reset reset
  have round : step s = .next (finishRound ((startRound (boundary s)).setCycle 1)) :=
    (step_eq_cpuRound noFault before running noStall).trans
      (cpuRound_of_jammed reset ((congrArg Cpu.jammed cpu).trans jammed))
  have clock := boundary_clock s
  have config := boundary_config s
  obtain ⟨v, finished, ⟨-, vCpu, vClock, vFault⟩, ticked, once⟩ :=
    finishRound_ticks (u := (startRound (boundary s)).setCycle 1) ((congrArg _ config).trans hp)
      ((boundary_fault s).trans noFault) (by rw [← clock] at room; exact room)
  have ⟨history, maps, stores⟩ : SameMemory (boundary s) v :=
    ((sameMemory_chipClosed (boundary s)).tickAll _ _ _).of_ok ticked ⟨rfl, rfl, rfl⟩
  refine ⟨_, round, ?_⟩
  rw [finished]
  refine ⟨vFault.trans ((boundary_fault s).trans noFault), vClock.trans (congrArg (· + 1) clock),
    history.trans (boundary_history s), maps, fun id off => congrArg (storesRead · id off) stores, ?_, ?_⟩
  · have vCpu : v.cpu = s.cpu := vCpu.trans cpu
    simp only [resolveLines, State.setCycle, vCpu]
  · rw [← clock, ← config]
    exact fun order => ⟨v, once order, rfl⟩

end Sys2Proof.Machine
end

section
/-! Loads, stores and register transfers (41_load_store_transfer.md): each form is its class run over the
template of its mode, so it completes where the template does. The lemmas about a form hold for any operation
and any stored value, and for any opcode: its cycles and penalty are looked up in the opcode map (R263). -/

namespace Sys2Proof.Machine

/-! ## What the operations leave -/

/-- `SetNZ` by the bits of the byte: N is bit 7, Z whether the byte is 0 (R22). -/
theorem Cpu.setNZ_eq (v : Byte) (c : Cpu) :
    c.setNZ v = { c with flagN := v.getLsbD 7, flagZ := decide (v = 0#8) } := rfl

theorem Cpu.loadA_eq (v : Byte) (c : Cpu) :
    c.loadA v = { c with a := v, flagN := v.getLsbD 7, flagZ := decide (v = 0#8) } := Cpu.setNZ_eq v _

theorem Cpu.loadX_eq (v : Byte) (c : Cpu) :
    c.loadX v = { c with x := v, flagN := v.getLsbD 7, flagZ := decide (v = 0#8) } := Cpu.setNZ_eq v _

theorem Cpu.loadY_eq (v : Byte) (c : Cpu) :
    c.loadY v = { c with y := v, flagN := v.getLsbD 7, flagZ := decide (v = 0#8) } := Cpu.setNZ_eq v _

/-! ## Forms -/

/-- A read form whose meaning is the read class over its template: it completes where the template only
reads, with what the operation leaves. -/
theorem readForm_completes {f : ReadForm} {op after : Byte → Cpu → Cpu} {s : State}
    (op_eq : ∀ m c, op m c = after m c) (template : Completes f.operand s fun _ t => ReadFrame s t)
    (executed : exec f.instr s = outcome (readClass f.operand op) s := by rfl)
    (opcode : f.instr.opcode = f.opcode := by rfl)
    (cycles : (rowOf f.opcode).cycles = f.cycles := by dsimp only; rfl)
    (penalty : (rowOf f.opcode).pagePenalty = f.plusP := by dsimp only; rfl) : f.completes after s :=
  ReadForm.completes_of template executed (.of_row opcode cycles penalty) fun m => op_eq m s.cpu

/-- A write form whose meaning is the write class over its template: it stores the value where the template
only reads. -/
theorem storeForm_stores {f : StoreForm} {s : State} (hp : s.production) (hc : s.canonical)
    (value : Cpu → Byte) (template : Completes f.address s fun _ t => ∃ recs, RanReads s recs t)
    (executed : exec f.instr s = outcome (writeClass f.address value) s := by rfl)
    (opcode : f.instr.opcode = f.opcode := by rfl)
    (cycles : (rowOf f.opcode).cycles = f.cycles := by dsimp only; rfl)
    (penalty : (rowOf f.opcode).pagePenalty = false := by dsimp only; rfl) : f.stores (value s.cpu) s :=
  StoreForm.stores_of hp hc template executed (.of_row opcode cycles penalty)

/-- An instruction whose meaning is the implied class: it completes with what the operation leaves (R311). -/
theorem implied_completes {i : Instr} {op : Byte} {f after : Cpu → Cpu} {s : State}
    (hp : s.production) (op_eq : ∀ c, f c = after c)
    (executed : exec i s = outcome (impliedClass f) s := by rfl)
    (opcode : i.opcode = op := by rfl) (cycles : (rowOf op).cycles = 2 := by rfl)
    (penalty : (rowOf op).pagePenalty = false := by rfl) : ImpliedCompletes i op after s :=
  ImpliedCompletes.of hp executed (.of_row opcode cycles penalty) (op_eq s.cpu)

/-! ## The statements -/

/-- Settles O9: each form loads from the template of its mode, which only reads. -/
theorem loadsComplete : Obligations.LoadsComplete := by
  intro s b1 w hp
  simp only [List.forall_mem_cons]
  refine ⟨?lda, ?ldx, ?ldy⟩
  case lda =>
    exact ⟨readForm_completes Cpu.loadA_eq (readIndx_frame hp b1),
      readForm_completes Cpu.loadA_eq (readZp_frame hp b1),
      readForm_completes Cpu.loadA_eq (readImm_frame s b1),
      readForm_completes Cpu.loadA_eq (readAbs_frame hp w),
      readForm_completes Cpu.loadA_eq (readIndy_frame hp b1),
      readForm_completes Cpu.loadA_eq (readZpx_frame hp b1),
      readForm_completes Cpu.loadA_eq (readAbsy_frame hp w),
      readForm_completes Cpu.loadA_eq (readAbsx_frame hp w), List.forall_mem_nil _⟩
  case ldx =>
    exact ⟨readForm_completes Cpu.loadX_eq (readImm_frame s b1),
      readForm_completes Cpu.loadX_eq (readZp_frame hp b1),
      readForm_completes Cpu.loadX_eq (readAbs_frame hp w),
      readForm_completes Cpu.loadX_eq (readZpy_frame hp b1),
      readForm_completes Cpu.loadX_eq (readAbsy_frame hp w), List.forall_mem_nil _⟩
  case ldy =>
    exact ⟨readForm_completes Cpu.loadY_eq (readImm_frame s b1),
      readForm_completes Cpu.loadY_eq (readZp_frame hp b1),
      readForm_completes Cpu.loadY_eq (readAbs_frame hp w),
      readForm_completes Cpu.loadY_eq (readZpx_frame hp b1),
      readForm_completes Cpu.loadY_eq (readAbsx_frame hp w), List.forall_mem_nil _⟩

/-- Settles O10: each form stores at the address of the template of its mode, which only reads. -/
theorem storesComplete : Obligations.StoresComplete := by
  intro s b1 w hp hc
  simp only [List.forall_mem_cons]
  refine ⟨?sta, ?stx, ?sty⟩
  case sta =>
    exact ⟨storeForm_stores hp hc Cpu.a (addrIndx_reads hp b1),
      storeForm_stores hp hc Cpu.a (addrZp_reads s b1),
      storeForm_stores hp hc Cpu.a (addrAbs_reads s w),
      storeForm_stores hp hc Cpu.a (addrIndy_reads hp b1),
      storeForm_stores hp hc Cpu.a (addrZpx_reads hp b1),
      storeForm_stores hp hc Cpu.a (addrAbsy_reads hp w),
      storeForm_stores hp hc Cpu.a (addrAbsx_reads hp w), List.forall_mem_nil _⟩
  case stx =>
    exact ⟨storeForm_stores hp hc Cpu.x (addrZp_reads s b1),
      storeForm_stores hp hc Cpu.x (addrAbs_reads s w),
      storeForm_stores hp hc Cpu.x (addrZpy_reads hp b1), List.forall_mem_nil _⟩
  case sty =>
    exact ⟨storeForm_stores hp hc Cpu.y (addrZp_reads s b1),
      storeForm_stores hp hc Cpu.y (addrAbs_reads s w),
      storeForm_stores hp hc Cpu.y (addrZpx_reads hp b1), List.forall_mem_nil _⟩

/-- Settles O11: each transfer is a load of its target, but TXS, which is an assignment. -/
theorem transfersComplete : Obligations.TransfersComplete := fun _ hp =>
  ⟨implied_completes hp fun c => Cpu.loadX_eq c.a c, implied_completes hp fun c => Cpu.loadY_eq c.a c,
    implied_completes hp fun c => Cpu.loadA_eq c.x c, implied_completes hp fun c => Cpu.loadA_eq c.y c,
    implied_completes hp fun c => Cpu.loadX_eq c.s c, implied_completes hp fun _ => rfl⟩

end Sys2Proof.Machine
end

section
/-! Arithmetic, logic, comparison, increment and shift instructions (42_arithmetic_logic.md): each table of
forms is one class over one operation, so it completes where the templates of its modes do. The tables share
their modes, so what the templates do is said once for each list of modes. -/

namespace Sys2Proof.Machine

/-! ## Tables of forms -/

/-- A table of read forms, each the read class of one operation over its template: every form completes where
the templates only read. The table agrees with the opcode map row by row (R263). -/
theorem readForms_complete {forms : List ReadForm} {op after : Byte → Cpu → Cpu} {s : State}
    (op_eq : ∀ m c, op m c = after m c)
    (templates : ∀ p ∈ forms.map ReadForm.operand, Completes p s fun _ t => ReadFrame s t)
    (executed : forms.map (fun f => exec f.instr s)
      = forms.map (fun f => outcome (readClass f.operand op) s) := by rfl)
    (encoded : forms.map (fun f => (f.instr.opcode, (rowOf f.opcode).cycles, (rowOf f.opcode).pagePenalty))
      = forms.map (fun f => (f.opcode, f.cycles, f.plusP)) := by
        simp only [List.map_cons, List.map_nil]; rfl) :
    ∀ f ∈ forms, f.completes after s := by
  intro f hf
  have row := List.map_inj_left.1 encoded f hf
  simp only [Prod.mk.injEq] at row
  obtain ⟨opcode, cycles, penalty⟩ := row
  exact readForm_completes op_eq (templates _ (List.mem_map_of_mem hf)) (List.map_inj_left.1 executed f hf)
    opcode cycles penalty

/-- A table of read-modify-write forms, likewise; what the operation gives is the byte stored and the CPU. -/
theorem rmwForms_modify {forms : List StoreForm} {op : Byte → Cpu → Byte × Cpu} {new : Byte → Cpu → Byte}
    {after : Byte → Cpu → Cpu} {s : State} (hp : s.production) (hc : s.canonical)
    (op_eq : ∀ m c, op m c = (new m c, after m c))
    (templates : ∀ p ∈ forms.map StoreForm.address, Completes p s fun _ t => ∃ recs, RanReads s recs t)
    (executed : forms.map (fun f => exec f.instr s)
      = forms.map (fun f => outcome (rmwClass f.address op noCombine) s) := by rfl)
    (encoded : forms.map (fun f => (f.instr.opcode, (rowOf f.opcode).cycles, (rowOf f.opcode).pagePenalty))
      = forms.map (fun f => (f.opcode, f.cycles, false)) := by
        simp only [List.map_cons, List.map_nil]; rfl) :
    ∀ f ∈ forms, f.modifies new after s := by
  intro f hf
  have row := List.map_inj_left.1 encoded f hf
  simp only [Prod.mk.injEq] at row
  obtain ⟨opcode, cycles, penalty⟩ := row
  refine StoreForm.modifies_of hp hc (templates _ (List.mem_map_of_mem hf))
    (List.map_inj_left.1 executed f hf) (.of_row opcode cycles penalty) (fun m => ?_) fun m => ?_
  · rw [op_eq]
  · rw [op_eq]; rfl

/-- The accumulator form of an operation on a byte completes with the byte it gives in A (R311). -/
theorem accumulator_completes {i : Instr} {opcode : Byte} {op : Byte → Cpu → Byte × Cpu} {after : Cpu → Cpu}
    {s : State} (hp : s.production) (op_eq : ∀ c, { (op c.a c).2 with a := (op c.a c).1 } = after c)
    (executed : exec i s = outcome (accumulatorClass op) s := by rfl)
    (own : i.opcode = opcode := by rfl) (cycles : (rowOf opcode).cycles = 2 := by rfl)
    (penalty : (rowOf opcode).pagePenalty = false := by rfl) : ImpliedCompletes i opcode after s :=
  implied_completes hp op_eq executed own cycles penalty

section
variable {s : State} (hp : s.production) (b1 : Byte) (w : Word)
include hp

/-- The templates of the eight modes of an accumulator operation only read. -/
theorem accumulatorTemplates_frame :
    ∀ p ∈ [readIndx b1, readZp b1, readImm b1, readAbs w, readIndy b1, readZpx b1, readAbsy w, readAbsx w],
      Completes p s fun _ t => ReadFrame s t := by
  simp only [List.forall_mem_cons]
  exact ⟨readIndx_frame hp b1, readZp_frame hp b1, readImm_frame s b1, readAbs_frame hp w,
    readIndy_frame hp b1, readZpx_frame hp b1, readAbsy_frame hp w, readAbsx_frame hp w,
    List.forall_mem_nil _⟩

/-- The templates of the three modes of an index register's comparison only read. -/
theorem indexTemplates_frame :
    ∀ p ∈ [readImm b1, readZp b1, readAbs w], Completes p s fun _ t => ReadFrame s t := by
  simp only [List.forall_mem_cons]
  exact ⟨readImm_frame s b1, readZp_frame hp b1, readAbs_frame hp w, List.forall_mem_nil _⟩

/-- The templates of the four modes of a documented read-modify-write instruction only read. -/
theorem rmwTemplates_read :
    ∀ p ∈ [addrZp b1, addrAbs w, addrZpx b1, addrAbsx w],
      Completes p s fun _ t => ∃ recs, RanReads s recs t := by
  simp only [List.forall_mem_cons]
  exact ⟨addrZp_reads s b1, addrAbs_reads s w, addrZpx_reads hp b1, addrAbsx_reads hp w,
    List.forall_mem_nil _⟩

end

/-! ## What the operations leave -/

/-- `Compare` on the register and the operand: Z says whether they are equal (R452). -/
theorem Cpu.compare_eq (r m : Byte) (c : Cpu) :
    c.compare r m =
      { c with flagC := decide (m.toNat ≤ r.toNat), flagN := (r - m).getLsbD 7, flagZ := decide (r = m) } := by
  have zero : (r - m = 0#8) = (r = m) := propext sub_eq_zero
  simp only [Cpu.compare, Cpu.setNZ_eq, zero]

/-- A carry as a byte enters at bit 7. -/
theorem bitByte_shiftLeft_seven (b : Bool) : bitByte b <<< 7 = if b then 0x80#8 else 0#8 := by
  cases b <;> rfl

/-- ROR: the old C enters bit 7, and N, Z and C describe the rotation (R471). -/
theorem Cpu.rorOp_eq (v : Byte) (c : Cpu) :
    c.rorOp v =
      let r := (v >>> 1) ||| (if c.flagC then 0x80#8 else 0#8)
      (r, { c with flagC := v.getLsbD 0, flagN := r.getLsbD 7, flagZ := decide (r = 0#8) }) := by
  rw [Cpu.rorOp, bitByte_shiftLeft_seven]; rfl

/-! ## The statements -/

/-- Settles O12: each form runs `AddCore` or `SubCore` over the template of its mode, which only reads. -/
theorem addSubtractComplete : Obligations.AddSubtractComplete := fun _ b1 w hp =>
  have templates := accumulatorTemplates_frame hp b1 w
  ⟨readForms_complete (fun _ _ => rfl) templates, readForms_complete (fun _ _ => rfl) templates⟩

/-- Settles O13: AND, ORA and EOR load A with the bitwise result, and BIT writes flags alone. -/
theorem logicComplete : Obligations.LogicComplete := by
  intro s b1 w hp
  have templates := accumulatorTemplates_frame hp b1 w
  refine ⟨?and, ?ora, ?eor, ?bit⟩
  case and => exact readForms_complete (fun m c => Cpu.loadA_eq (c.a &&& m) c) templates
  case ora => exact readForms_complete (fun m c => Cpu.loadA_eq (c.a ||| m) c) templates
  case eor => exact readForms_complete (fun m c => Cpu.loadA_eq (c.a ^^^ m) c) templates
  case bit =>
    exact readForms_complete (op := Cpu.bitOp) (fun _ _ => rfl) fun p h =>
      indexTemplates_frame hp b1 w p (List.mem_cons_of_mem _ h)

/-- Settles O14: each form compares its register with the operand its template reads. -/
theorem comparesComplete : Obligations.ComparesComplete := by
  intro s b1 w hp
  refine ⟨?cmp, ?cpx, ?cpy⟩
  case cmp => exact readForms_complete (fun m c => Cpu.compare_eq c.a m c) (accumulatorTemplates_frame hp b1 w)
  case cpx => exact readForms_complete (fun m c => Cpu.compare_eq c.x m c) (indexTemplates_frame hp b1 w)
  case cpy => exact readForms_complete (fun m c => Cpu.compare_eq c.y m c) (indexTemplates_frame hp b1 w)

/-- Settles O15: the memory forms step the byte at the address of their template, and the register forms
load their register. -/
theorem incrementsComplete : Obligations.IncrementsComplete := by
  intro s b1 w hp hc
  have templates := rmwTemplates_read hp b1 w
  refine ⟨?inc, ?dec, ?inx, ?iny, ?dex, ?dey⟩
  case inc => exact rmwForms_modify (op := Cpu.incOp) hp hc (fun _ _ => rfl) templates
  case dec => exact rmwForms_modify (op := Cpu.decOp) hp hc (fun _ _ => rfl) templates
  case inx => exact implied_completes hp fun c => Cpu.loadX_eq (c.x + 1#8) c
  case iny => exact implied_completes hp fun c => Cpu.loadY_eq (c.y + 1#8) c
  case dex => exact implied_completes hp fun c => Cpu.loadX_eq (c.x - 1#8) c
  case dey => exact implied_completes hp fun c => Cpu.loadY_eq (c.y - 1#8) c

/-- Settles O16: one operation on a byte serves the memory forms and the accumulator form of each shift. -/
theorem shiftsComplete : Obligations.ShiftsComplete := by
  intro s b1 w hp hc
  have templates := rmwTemplates_read hp b1 w
  refine ⟨?asl, ?aslAcc, ?lsr, ?lsrAcc, ?rol, ?rolAcc, ?ror, ?rorAcc⟩
  case asl => exact rmwForms_modify (op := Cpu.aslOp) hp hc (fun _ _ => rfl) templates
  case aslAcc => exact accumulator_completes (op := Cpu.aslOp) hp fun _ => rfl
  case lsr => exact rmwForms_modify (op := Cpu.lsrOp) hp hc (fun _ _ => rfl) templates
  case lsrAcc => exact accumulator_completes (op := Cpu.lsrOp) hp fun _ => rfl
  case rol => exact rmwForms_modify (op := Cpu.rolOp) hp hc (fun _ _ => rfl) templates
  case rolAcc => exact accumulator_completes (op := Cpu.rolOp) hp fun _ => rfl
  case ror => exact rmwForms_modify hp hc (fun v c => Cpu.rorOp_eq v c) templates
  case rorAcc => exact accumulator_completes (op := Cpu.rorOp) hp fun c => by rw [Cpu.rorOp_eq]

end Sys2Proof.Machine
end

section
/-! `AddCore` and `SubCore` (42_arithmetic_logic.md R450, R451) as arithmetic: the masks of their formulas are
bits and digits of numbers, V finds the signed overflow, and with D = 1 the corrections of the digits add and
subtract packed decimal numbers. -/

namespace Sys2Proof.Machine

/-! ## Bits and digits of a number -/

/-- The mask of the sign bit finds it. -/
theorem byte_and_sign (v : Byte) : (v &&& 0x80#8 != 0#8) = v.msb := by
  rw [show (0x80#8 : Byte) = BitVec.twoPow 8 7 from rfl, BitVec.and_twoPow, BitVec.msb_eq_getLsbD_last]
  cases v.getLsbD (8 - 1) <;> rfl

/-- The mask of one bit of a number finds it. -/
theorem nat_and_bit (x n : Nat) : (x &&& 2 ^ n != 0) = x.testBit n := by
  rw [Nat.and_two_pow]
  cases x.testBit n <;> simp

/-- The mask of `k` bits from bit `n` on, as division. -/
theorem nat_and_mask (x n k : Nat) : x &&& (2 ^ k - 1) <<< n = 2 ^ n * (x / 2 ^ n % 2 ^ k) := by
  rw [← Nat.and_two_pow_sub_one_eq_mod, ← Nat.shiftRight_eq_div_pow, Nat.mul_comm, ← Nat.shiftLeft_eq]
  apply Nat.eq_of_testBit_eq
  intro i
  simp only [Nat.testBit_and, Nat.testBit_shiftLeft, Nat.testBit_shiftRight]
  by_cases h : n ≤ i <;> simp [h]

/-- The signed value of a byte. -/
theorem byte_toInt (v : Byte) : v.toInt = if v.msb then (v.toNat : Int) - 256 else v.toNat :=
  BitVec.toInt_eq_msb_cond v

theorem byte_msb (v : Byte) : v.msb = decide (128 ≤ v.toNat) := BitVec.msb_eq_decide v

/-! ## Binary -/

/-- The sum is out of the signed range where the operands agree in sign and the result does not (R450). -/
theorem addOverflow_eq (a m : Byte) (k : Bool) :
    (~~~(a ^^^ m) &&& (a ^^^ (a + m + BitVec.ofNat 8 k.toNat)) &&& 0x80#8 != 0#8)
      = decide (a.toInt + m.toInt + k.toNat < -128 ∨ 127 < a.toInt + m.toInt + k.toNat) := by
  have := a.isLt
  have := m.isLt
  have := k.toNat_lt
  rw [byte_and_sign, BitVec.msb_and, BitVec.msb_not, BitVec.msb_xor, BitVec.msb_xor, Bool.eq_iff_iff]
  simp only [byte_toInt, byte_msb, BitVec.toNat_add, BitVec.toNat_ofNat]
  by_cases ha : 128 ≤ a.toNat <;> by_cases hm : 128 ≤ m.toNat <;> simp [ha, hm] <;> omega

/-- The difference is out of the signed range where the operands differ in sign and the result does not have
the first one's (R451). -/
theorem subOverflow_eq (a m : Byte) (b : Bool) :
    (((a ^^^ (a - m - BitVec.ofNat 8 b.toNat)) &&& 0x80#8 != 0#8) && ((a ^^^ m) &&& 0x80#8 != 0#8))
      = decide (a.toInt - m.toInt - b.toNat < -128 ∨ 127 < a.toInt - m.toInt - b.toNat) := by
  have := a.isLt
  have := m.isLt
  have := b.toNat_lt
  rw [byte_and_sign, byte_and_sign, BitVec.msb_xor, BitVec.msb_xor, Bool.eq_iff_iff]
  simp only [byte_toInt, byte_msb, BitVec.toNat_sub, BitVec.toNat_ofNat]
  by_cases ha : 128 ≤ a.toNat <;> by_cases hm : 128 ≤ m.toNat <;> simp [ha, hm] <;> omega

/-- `AddCore` with D = 0 (R450). -/
theorem Cpu.addCore_binary (m : Byte) {c : Cpu} (hD : c.flagD = false) :
    c.addCore m =
      { c with
        a := c.a + m + BitVec.ofNat 8 c.flagC.toNat
        flagC := decide (0xFF < c.a.toNat + m.toNat + c.flagC.toNat)
        flagV := decide (c.a.toInt + m.toInt + c.flagC.toNat < -128
          ∨ 127 < c.a.toInt + m.toInt + c.flagC.toNat)
        flagN := (c.a + m + BitVec.ofNat 8 c.flagC.toNat).getLsbD 7
        flagZ := decide (c.a + m + BitVec.ofNat 8 c.flagC.toNat = 0#8) } := by
  have sum : BitVec.ofNat 8 (c.a.toNat + m.toNat + c.flagC.toNat)
      = c.a + m + BitVec.ofNat 8 c.flagC.toNat := by
    rw [BitVec.ofNat_add, BitVec.ofNat_add, BitVec.ofNat_toNat, BitVec.ofNat_toNat]
    simp only [BitVec.setWidth_eq]
  rw [Cpu.addCore, if_neg (Bool.eq_false_iff.1 hD), Cpu.addBinary]
  simp only [sum, addOverflow_eq, Cpu.setNZ_eq, gt_iff_lt]

/-- A bit as a byte, by its number. -/
theorem toNat_bitByte (b : Bool) : (bitByte b).toNat = b.toNat := by cases b <;> rfl

/-- The low byte of `SubCore`'s difference is the byte difference (R451). -/
theorem Cpu.subDiff_low (m : Byte) (c : Cpu) :
    (c.subDiff m).setWidth 8 = c.a - m - BitVec.ofNat 8 (!c.flagC).toNat := by
  have := c.a.isLt
  have := m.isLt
  have := (!c.flagC).toNat_lt
  apply BitVec.eq_of_toNat_eq
  simp only [Cpu.subDiff, BitVec.toNat_setWidth, BitVec.toNat_sub, toNat_bitByte, BitVec.toNat_ofNat]
  omega

/-- `SubCore`'s difference keeps to a byte where no borrow comes out (R451). -/
theorem Cpu.subDiff_lt_iff (m : Byte) (c : Cpu) :
    (c.subDiff m).toNat < 0x100 ↔ m.toNat + (!c.flagC).toNat ≤ c.a.toNat := by
  have := c.a.isLt
  have := m.isLt
  have := (!c.flagC).toNat_lt
  simp only [Cpu.subDiff, BitVec.toNat_setWidth, BitVec.toNat_sub, toNat_bitByte]
  omega

/-- `SubCore`: its flags are the binary difference's in both modes (R451). -/
theorem Cpu.subCore_eq (m : Byte) (c : Cpu) {b : Nat} (hb : b = (!c.flagC).toNat) :
    c.subCore m =
      { c with
        a := if c.flagD then c.subDecimalResult m else c.a - m - BitVec.ofNat 8 b
        flagC := decide (m.toNat + b ≤ c.a.toNat)
        flagV := decide (c.a.toInt - m.toInt - b < -128 ∨ 127 < c.a.toInt - m.toInt - b)
        flagN := (c.a - m - BitVec.ofNat 8 b).getLsbD 7
        flagZ := decide (c.a - m - BitVec.ofNat 8 b = 0#8) } := by
  subst hb
  simp only [Cpu.subCore, Cpu.subDiff_low, Cpu.subDiff_lt_iff, subOverflow_eq, Cpu.setNZ_eq]

/-- Settles O31: V finds the signed overflow, and the rest is the sum and the difference of the bytes. -/
theorem binaryArithmetic : Obligations.BinaryArithmetic :=
  fun m c => ⟨Cpu.addCore_binary m, fun _ => Cpu.subCore_eq m c⟩

/-! ## Decimal -/

/-- The mask of the low digit of a number. -/
theorem nat_and_low (x : Nat) : x &&& 0x0F = x % 16 := Nat.and_two_pow_sub_one_eq_mod x 4

/-- The mask of the high digit of a byte. -/
theorem toNat_and_high (v : Byte) : v.toNat &&& 0xF0 = 16 * (v.toNat / 16) := by
  have := v.isLt
  have mask : v.toNat &&& 0xF0 = 16 * (v.toNat / 16 % 16) := nat_and_mask v.toNat 4 4
  omega

/-- Bit 7 of a number. -/
theorem nat_bit_seven (x : Nat) : x.testBit 7 = decide (128 ≤ x % 256) := by
  rw [Nat.testBit_eq_decide_div_mod_eq, decide_eq_decide]
  omega

/-- Bit 7 of the exclusive or of a byte with a number says whether it differs there. -/
theorem sign_differs (v : Byte) (x : Nat) :
    ((v.toNat ^^^ x) &&& 0x80 != 0) = decide (v.msb ≠ decide (128 ≤ x % 256)) := by
  have mask : ((v.toNat ^^^ x) &&& 0x80 != 0) = (v.toNat ^^^ x).testBit 7 := nat_and_bit _ 7
  rw [mask, Nat.testBit_xor, nat_bit_seven x, show v.toNat.testBit 7 = v.msb from
    (BitVec.msb_eq_getLsbD_last v).symm]
  cases v.msb <;> cases decide (128 ≤ x % 256) <;> rfl

/-- The number before the correction of the high digit calls for it (R450). -/
theorem high_exceeds_nine (t : Nat) : 0x90 < t &&& 0x1F0 ↔ 9 < t / 16 % 32 := by
  have mask : t &&& 0x1F0 = 16 * (t / 16 % 32) := nat_and_mask t 4 5
  omega

/-- The number after the correction of the high digit carries (R450). -/
theorem high_carries (u : Nat) : 0xF0 < u &&& 0xFF0 ↔ 15 < u / 16 % 256 := by
  have mask : u &&& 0xFF0 = 16 * (u / 16 % 256) := nat_and_mask u 4 8
  omega

/-- The binary sum is 0 where the byte sum is (R450). -/
theorem byte_sum_eq_zero_iff (a m : Byte) (k : Nat) :
    (a.toNat + m.toNat + k) % 256 = 0 ↔ a + m + BitVec.ofNat 8 k = 0#8 := by
  rw [← BitVec.toNat_inj]; simp

/-- `AddCore` with D = 1 (R450): `lo` is the corrected sum of the low digits, `t` the sum before the correction
of the high digit, and `u` the sum after it. -/
theorem Cpu.addCore_decimal (m : Byte) {c : Cpu} (hD : c.flagD = true) {lo t u : Nat}
    (hlo : lo = c.a.toNat % 16 + m.toNat % 16 + c.flagC.toNat
      + if 9 < c.a.toNat % 16 + m.toNat % 16 + c.flagC.toNat then 6 else 0)
    (ht : t = lo % 16 + 16 * (c.a.toNat / 16) + 16 * (m.toNat / 16) + if 15 < lo then 16 else 0)
    (hu : u = if 9 < t / 16 % 32 then t + 96 else t) :
    c.addCore m =
      { c with
        a := BitVec.ofNat 8 u
        flagC := decide (15 < u / 16 % 256)
        flagN := decide (128 ≤ t % 256)
        flagV := decide (c.a.msb = m.msb) && decide (c.a.msb ≠ decide (128 ≤ t % 256))
        flagZ := decide (c.a + m + BitVec.ofNat 8 c.flagC.toNat = 0#8) } := by
  have corrected : (if 9 < c.a.toNat % 16 + m.toNat % 16 + c.flagC.toNat
      then c.a.toNat % 16 + m.toNat % 16 + c.flagC.toNat + 6
      else c.a.toNat % 16 + m.toNat % 16 + c.flagC.toNat) = lo := by
    rw [hlo]; split <;> rfl
  have agree : ((c.a.toNat ^^^ m.toNat) &&& 0x80 == 0) = decide (c.a.msb = m.msb) := by
    rw [← Bool.not_inj_iff, ← bne, sign_differs, byte_msb m, Nat.mod_eq_of_lt m.isLt, decide_not]
  have zero : ((c.a.toNat + m.toNat + c.flagC.toNat) % 256 == 0)
      = decide (c.a + m + BitVec.ofNat 8 c.flagC.toNat = 0#8) :=
    decide_eq_decide.2 (byte_sum_eq_zero_iff c.a m _)
  rw [Cpu.addCore, if_pos hD, Cpu.addDecimal]
  simp only [nat_and_low, toNat_and_high, gt_iff_lt, corrected, ← ht, high_exceeds_nine, ← hu, high_carries,
    nat_bit_seven, sign_differs, agree, zero, Bool.and_comm]

/-! ### Subtraction: the 16-bit intermediates as integers -/

/-- The mask of the low digit of a 16-bit intermediate. -/
theorem toNat_and_low (x : BitVec 16) : (x &&& 0x0F#16).toNat = x.toNat % 16 := by
  rw [BitVec.toNat_and]
  exact nat_and_low x.toNat

/-- The mask of one bit of a 16-bit intermediate finds it. -/
theorem and_twoPow_ne_zero_iff (x : BitVec 16) {n : Nat} (hn : n < 16) :
    x &&& BitVec.twoPow 16 n ≠ 0#16 ↔ x.toNat / 2 ^ n % 2 = 1 := by
  have bit : x.getLsbD n = decide (x.toNat / 2 ^ n % 2 = 1) := Nat.testBit_eq_decide_div_mod_eq
  have mask : BitVec.twoPow 16 n ≠ 0#16 := fun h => by
    have := congrArg (·.getLsbD n) h
    simp [hn] at this
  rw [BitVec.and_twoPow, bit]
  by_cases h : x.toNat / 2 ^ n % 2 = 1 <;> simp [h, mask]

/-- A digit joins a number whose low digit is 0. -/
theorem toNat_or_digit {d x : BitVec 16} (hd : d.toNat < 16) (hx : x.toNat % 16 = 0) :
    (d ||| x).toNat = d.toNat + x.toNat := by
  have joined : 2 ^ 4 * (x.toNat / 16) + d.toNat = 2 ^ 4 * (x.toNat / 16) ||| d.toNat :=
    Nat.two_pow_add_eq_or_of_lt hd _
  have whole : 2 ^ 4 * (x.toNat / 16) = x.toNat := by omega
  rw [whole] at joined
  rw [BitVec.toNat_or, Nat.or_comm, ← joined, Nat.add_comm]

/-- The low digit of `SubCore` (R451): below 0 it is corrected and borrows from the high digit. -/
theorem subLow_toNat {l h : BitVec 16} {lo hi : Int} (hl : (l.toNat : Int) = lo % 65536)
    (hlo : -16 ≤ lo ∧ lo < 16) (hh : (h.toNat : Int) = hi % 65536) (hhi : hi % 16 = 0) :
    ((if l &&& 0x10#16 ≠ 0#16 then ((l - 0x06#16) &&& 0x0F#16) ||| (h - 0x10#16)
        else (l &&& 0x0F#16) ||| h).toNat : Int)
      = ((if lo < 0 then (lo - 6) % 16 else lo) + (hi - if lo < 0 then 16 else 0)) % 65536 := by
  have borrows : l &&& 0x10#16 ≠ 0#16 ↔ lo < 0 := by
    rw [show (0x10#16) = BitVec.twoPow 16 4 from rfl, and_twoPow_ne_zero_iff l (by decide)]
    omega
  by_cases borrow : lo < 0
  · have corrected : (l - 0x06#16).toNat = (65536 - 6 + l.toNat) % 65536 := BitVec.toNat_sub ..
    have borrowed : (h - 0x10#16).toNat = (65536 - 16 + h.toNat) % 65536 := BitVec.toNat_sub ..
    have digit : ((l - 0x06#16) &&& 0x0F#16).toNat < 16 := by rw [toNat_and_low]; omega
    rw [if_pos (borrows.2 borrow), if_pos borrow, if_pos borrow, toNat_or_digit digit (by omega),
      toNat_and_low]
    omega
  · have digit : (l &&& 0x0F#16).toNat < 16 := by rw [toNat_and_low]; omega
    rw [if_neg (mt borrows.1 borrow), if_neg borrow, if_neg borrow, toNat_or_digit digit (by omega),
      toNat_and_low]
    omega

/-- The high digit of `SubCore` (R451): below 0 it is corrected. -/
theorem subHigh_eq {r : BitVec 16} {d hi : Int} (hr : (r.toNat : Int) = (d + hi) % 65536)
    (hd : 0 ≤ d ∧ d < 16) (hhi : hi % 16 = 0) (range : -256 ≤ hi ∧ hi < 256) :
    (if r &&& 0x100#16 ≠ 0#16 then r - 0x60#16 else r).setWidth 8
      = BitVec.ofInt 8 (d + if hi < 0 then hi - 96 else hi) := by
  have borrows : r &&& 0x100#16 ≠ 0#16 ↔ hi < 0 := by
    rw [show (0x100#16) = BitVec.twoPow 16 8 from rfl, and_twoPow_ne_zero_iff r (by decide)]
    omega
  apply BitVec.eq_of_toNat_eq
  rw [BitVec.toNat_setWidth, BitVec.toNat_ofInt]
  by_cases borrow : hi < 0
  · have corrected : (r - 0x60#16).toNat = (65536 - 96 + r.toNat) % 65536 := BitVec.toNat_sub ..
    rw [if_pos (borrows.2 borrow), if_pos borrow, corrected]
    omega
  · rw [if_neg (mt borrows.1 borrow), if_neg borrow]
    omega

/-- The byte `SubCore` stores with D = 1 (R451): `lo` and `hi` are the differences of the digits before their
corrections, `hi` after the borrow of the low one. -/
theorem Cpu.subDecimalResult_eq (m : Byte) (c : Cpu) {lo hi : Int}
    (hlo : lo = c.a.toNat % 16 - m.toNat % 16 - (!c.flagC).toNat)
    (hhi : hi = 16 * (c.a.toNat / 16) - 16 * (m.toNat / 16) - if lo < 0 then 16 else 0) :
    c.subDecimalResult m = BitVec.ofInt 8
      ((if lo < 0 then (lo - 6) % 16 else lo) + if hi < 0 then hi - 96 else hi) := by
  have ha := c.a.isLt
  have hm := m.isLt
  have hb := (!c.flagC).toNat_le
  have low : (((c.a.setWidth 16 &&& 0x0F#16) - (m.setWidth 16 &&& 0x0F#16)
      - (bitByte (!c.flagC)).setWidth 16).toNat : Int) = lo % 65536 := by
    simp only [BitVec.toNat_sub, toNat_and_low, BitVec.toNat_setWidth, toNat_bitByte]
    omega
  have wide (v : Byte) : (v.setWidth 16 &&& 0xF0#16).toNat = 16 * (v.toNat / 16) := by
    rw [BitVec.toNat_and, BitVec.toNat_setWidth_of_le (by decide)]
    exact toNat_and_high v
  have high : (((c.a.setWidth 16 &&& 0xF0#16) - (m.setWidth 16 &&& 0xF0#16)).toNat : Int)
      = (16 * (c.a.toNat / 16) - 16 * (m.toNat / 16)) % 65536 := by
    rw [BitVec.toNat_sub, wide, wide]
    omega
  have digits := subLow_toNat low (by omega) high (by omega)
  rw [← hhi] at digits
  have digit : 0 ≤ (if lo < 0 then (lo - 6) % 16 else lo)
      ∧ (if lo < 0 then (lo - 6) % 16 else lo) < 16 := by
    split <;> omega
  exact subHigh_eq digits digit (by omega) (by omega)

/-- The A that `SubCore` leaves with D = 1 (R451). -/
theorem Cpu.subCore_decimal_a (m : Byte) {c : Cpu} (hD : c.flagD = true) {lo hi : Int}
    (hlo : lo = c.a.toNat % 16 - m.toNat % 16 - (!c.flagC).toNat)
    (hhi : hi = 16 * (c.a.toNat / 16) - 16 * (m.toNat / 16) - if lo < 0 then 16 else 0) :
    (c.subCore m).a = BitVec.ofInt 8
      ((if lo < 0 then (lo - 6) % 16 else lo) + if hi < 0 then hi - 96 else hi) := by
  rw [Cpu.subCore_eq m c rfl]
  exact (if_pos hD).trans (Cpu.subDecimalResult_eq m c hlo hhi)

/-! ### Packed decimal numbers -/

/-- The number a byte of two decimal digits holds. -/
def packedValue (v : Byte) : Nat := 10 * (v.toNat / 16) + v.toNat % 16

/-- Both digits of the byte are decimal ones. -/
def IsPacked (v : Byte) : Prop := v.toNat / 16 ≤ 9 ∧ v.toNat % 16 ≤ 9

/-- The corrections of `AddCore` carry from each digit at ten: they make the decimal digits of the sum
(R450). -/
theorem packed_sum {aHigh aLow mHigh mLow k lo t u : Nat} (ha : aHigh ≤ 9 ∧ aLow ≤ 9)
    (hm : mHigh ≤ 9 ∧ mLow ≤ 9) (hk : k ≤ 1)
    (hlo : lo = aLow + mLow + k + if 9 < aLow + mLow + k then 6 else 0)
    (ht : t = lo % 16 + 16 * aHigh + 16 * mHigh + if 15 < lo then 16 else 0)
    (hu : u = if 9 < t / 16 % 32 then t + 96 else t) :
    (u % 256 / 16 ≤ 9 ∧ u % 256 % 16 ≤ 9)
      ∧ 10 * (u % 256 / 16) + u % 256 % 16 = (10 * aHigh + aLow + (10 * mHigh + mLow) + k) % 100
      ∧ (15 < u / 16 % 256 ↔ 100 ≤ 10 * aHigh + aLow + (10 * mHigh + mLow) + k) := by
  obtain ⟨digit, carry, hdigit, hcarry, low, before⟩ : ∃ digit carry, digit ≤ 9 ∧ carry ≤ 1
      ∧ aLow + mLow + k = 10 * carry + digit ∧ t = 16 * (aHigh + mHigh + carry) + digit := by
    refine ⟨(aLow + mLow + k) % 10, (aLow + mLow + k) / 10, ?_, ?_, ?_, ?_⟩
    case refine_4 => split at hlo <;> split at ht <;> omega
    all_goals omega
  obtain ⟨high, hundred, hhigh, hhundred, sum, after⟩ : ∃ high hundred, high ≤ 9 ∧ hundred ≤ 1
      ∧ aHigh + mHigh + carry = 10 * hundred + high ∧ u = 256 * hundred + (16 * high + digit) := by
    refine ⟨(aHigh + mHigh + carry) % 10, (aHigh + mHigh + carry) / 10, ?_, ?_, ?_, ?_⟩
    case refine_4 => split at hu <;> omega
    all_goals omega
  have stored : u % 256 = 16 * high + digit := by omega
  have carried : u / 16 % 256 = 16 * hundred + high := by omega
  rw [stored, carried]
  omega

/-- The corrections of `SubCore` borrow from each digit below 0: they make the decimal digits of the difference
(R451). -/
theorem packed_difference {aHigh aLow mHigh mLow k : Nat} {lo hi z : Int} (ha : aHigh ≤ 9 ∧ aLow ≤ 9)
    (hm : mHigh ≤ 9 ∧ mLow ≤ 9) (hk : k ≤ 1) (hlo : lo = aLow - mLow - k)
    (hhi : hi = 16 * aHigh - 16 * mHigh - if lo < 0 then 16 else 0)
    (hz : z = (if lo < 0 then (lo - 6) % 16 else lo) + if hi < 0 then hi - 96 else hi) :
    ((z % 256).toNat / 16 ≤ 9 ∧ (z % 256).toNat % 16 ≤ 9)
      ∧ 10 * ((z % 256).toNat / 16) + (z % 256).toNat % 16
        = (10 * aHigh + aLow + 100 - (10 * mHigh + mLow) - k) % 100 := by
  have low : (if lo < 0 then (lo - 6) % 16 else lo) = lo % 10 := by split <;> omega
  have high : (if hi < 0 then hi - 96 else hi) % 256 = 16 * (hi / 16 % 10) := by split <;> omega
  have digits : z % 256 = 16 * (hi / 16 % 10) + lo % 10 := by omega
  have borrow : hi / 16 = aHigh - mHigh + lo / 10 := by split at hhi <;> omega
  omega

/-- `AddCore` with D = 1 adds packed decimal numbers (R450). -/
theorem Cpu.addCore_packed {m : Byte} {c : Cpu} (hD : c.flagD = true) (ha : IsPacked c.a)
    (hm : IsPacked m) :
    IsPacked (c.addCore m).a
      ∧ packedValue (c.addCore m).a = (packedValue c.a + packedValue m + c.flagC.toNat) % 100
      ∧ (c.addCore m).flagC = decide (100 ≤ packedValue c.a + packedValue m + c.flagC.toNat) := by
  obtain ⟨digits, value, carry⟩ := packed_sum ha hm c.flagC.toNat_le rfl rfl rfl
  rw [Cpu.addCore_decimal m hD rfl rfl rfl, IsPacked, packedValue, BitVec.toNat_ofNat]
  exact ⟨digits, value, decide_eq_decide.2 carry⟩

/-- `SubCore` with D = 1 subtracts packed decimal numbers (R451). -/
theorem Cpu.subCore_packed {m : Byte} {c : Cpu} (hD : c.flagD = true) (ha : IsPacked c.a)
    (hm : IsPacked m) :
    IsPacked (c.subCore m).a
      ∧ packedValue (c.subCore m).a = (packedValue c.a + 100 - packedValue m - (!c.flagC).toNat) % 100
      ∧ (c.subCore m).flagC = decide (packedValue m + (!c.flagC).toNat ≤ packedValue c.a) := by
  obtain ⟨digits, value⟩ := packed_difference ha hm (!c.flagC).toNat_le rfl rfl rfl
  have noBorrow : m.toNat + (!c.flagC).toNat ≤ c.a.toNat
      ↔ packedValue m + (!c.flagC).toNat ≤ packedValue c.a := by
    unfold IsPacked at ha hm
    unfold packedValue
    have := (!c.flagC).toNat_le
    omega
  rw [IsPacked, packedValue, Cpu.subCore_decimal_a m hD rfl rfl, BitVec.toNat_ofInt]
  exact ⟨digits, value, (congrArg Cpu.flagC (Cpu.subCore_eq m c rfl)).trans (decide_eq_decide.2 noBorrow)⟩

/-- Settles O32: the masks of the formulas are divisions, and on packed decimal numbers the corrections make
the digits of the sum and of the difference. -/
theorem decimalArithmetic : Obligations.DecimalArithmetic := by
  intro m c hD
  refine ⟨fun _ _ _ => Cpu.addCore_decimal m hD, fun _ _ => Cpu.subCore_decimal_a m hD,
    fun dec valid hdec hvalid ha hm => ?_⟩
  obtain rfl : dec = packedValue := funext hdec
  obtain rfl : valid = IsPacked := funext fun v => propext (hvalid v)
  exact ⟨Cpu.addCore_packed hD ha hm, Cpu.subCore_packed hD ha hm⟩

end Sys2Proof.Machine
end

section
/-! Branches, jumps, subroutines, returns and BRK (43_control_flow.md): the accesses and the CPU of each
operation, said once from the accesses it is made of, and the stack bytes that lead RTS back behind its JSR. -/

namespace Sys2Proof.Machine

/-! ## Branches -/

section

variable {s : State}

/-- A branch that is not taken does nothing more (R340). -/
theorem branchClass_not_taken {cond : Cpu → Bool} {off : Byte} (h : cond s.cpu = false) :
    branchClass cond off s = .ok () s := by
  rw [branchClass, bind_ok (show getCpu s = .ok s.cpu s from rfl), if_neg (Bool.eq_false_iff.1 h)]
  rfl

/-- A taken branch within its page: one dummy read (R340, R520). -/
theorem branchClass_within_page {cond : Cpu → Bool} {off : Byte} (hp : s.production) (hc : s.canonical)
    (taken : cond s.cpu = true) (same : hiByte (s.cpu.pc + sext16 off) = hiByte s.cpu.pc) :
    Completes (branchClass cond off) s fun _ t => ∃ d,
      Ran s [] [readRec s 0 .dummy s.cpu.pc d] { s.cpu with pc := s.cpu.pc + sext16 off } t := by
  refine ((Ran.refl hc).getCpu (Q := fun c t => s.cpu = c ∧ s = t) ⟨rfl, rfl⟩).bind ?_
  rintro _ _ ⟨rfl, rfl⟩
  rw [if_pos taken]
  refine ((Ran.refl hc).dummyRead hp _).bind fun _ t ⟨d, h1⟩ => ?_
  dsimp only
  rw [if_pos same]
  exact (h1.updCpu _).mono fun _ _ h2 => ⟨d, h2⟩

/-- A taken branch out of its page: a second dummy read, at the target with the old high byte (R340, R520). -/
theorem branchClass_across_pages {cond : Cpu → Bool} {off : Byte} (hp : s.production) (hc : s.canonical)
    (taken : cond s.cpu = true) (other : hiByte (s.cpu.pc + sext16 off) ≠ hiByte s.cpu.pc) :
    Completes (branchClass cond off) s fun _ t => ∃ d e,
      Ran s [] [readRec s 0 .dummy s.cpu.pc d,
          readRec s 1 .dummy (mkWord (hiByte s.cpu.pc) (loByte (s.cpu.pc + sext16 off))) e]
        { s.cpu with pc := s.cpu.pc + sext16 off } t := by
  refine ((Ran.refl hc).getCpu (Q := fun c t => s.cpu = c ∧ s = t) ⟨rfl, rfl⟩).bind ?_
  rintro _ _ ⟨rfl, rfl⟩
  rw [if_pos taken]
  refine ((Ran.refl hc).dummyRead hp _).bind fun _ t ⟨d, h1⟩ => ?_
  dsimp only
  rw [if_neg other]
  refine (h1.dummyRead hp _).bind fun _ u ⟨e, h2⟩ => ?_
  exact (h2.updCpu _).mono fun _ _ h3 => ⟨d, e, h3⟩

/-- An instruction whose meaning is the branch class completes: not taken, taken within its page, and taken
out of it. -/
theorem branch_completes {i : Instr} {op off : Byte} {target : Word} (hp : s.production)
    (hc : s.canonical) (ht : target = s.cpu.pc + sext16 off) (cond : Cpu → Bool)
    (executed : exec i s = outcome (branchClass cond off) s := by rfl)
    (opcode : i.opcode = op := by rfl) (cycles : (rowOf op).cycles = 2 := by rfl)
    (penalty : (rowOf op).pagePenalty = false := by rfl) :
    Encodes i op 2 false ∧
      (cond s.cpu = false → exec i s = .next s) ∧
      (cond s.cpu = true → hiByte target = hiByte s.cpu.pc → ∃ d t, exec i s = .next t
        ∧ Ran s [] [readRec s 0 .dummy s.cpu.pc d] { s.cpu with pc := target } t) ∧
      (cond s.cpu = true → hiByte target ≠ hiByte s.cpu.pc → ∃ d e t, exec i s = .next t
        ∧ Ran s [] [readRec s 0 .dummy s.cpu.pc d,
            readRec s 1 .dummy (mkWord (hiByte s.cpu.pc) (loByte target)) e]
          { s.cpu with pc := target } t) := by
  subst ht
  rw [executed]
  refine ⟨.of_row opcode cycles penalty, fun h => outcome_ok (branchClass_not_taken h), ?within, ?across⟩
  case within =>
    intro taken same
    obtain ⟨t, ht, d, ran⟩ := outcome_of_completes (branchClass_within_page (off := off) hp hc taken same)
    exact ⟨d, t, ht, ran⟩
  case across =>
    intro taken other
    obtain ⟨t, ht, d, e, ran⟩ :=
      outcome_of_completes (branchClass_across_pages (off := off) hp hc taken other)
    exact ⟨d, e, t, ht, ran⟩

/-! ## Jumps and subroutines -/

/-- JMP indirect: the second pointer read stays in the page of the first (R531). -/
theorem jumpIndirect_completes (hp : s.production) (hc : s.canonical) (w : Word) :
    Completes (jumpIndirect w) s fun _ t => ∃ lo hi, s.ReadsAfter [] w lo
      ∧ s.ReadsAfter [] (mkWord (hiByte w) (loByte w + 1#8)) hi
      ∧ Ran s [] [readRec s 0 .pointer w lo,
          readRec s 1 .pointer (mkWord (hiByte w) (loByte w + 1#8)) hi]
        { s.cpu with pc := mkWord hi lo } t := by
  refine ((Ran.refl hc).memRead hp .pointer w).bind fun lo _ ⟨h1, readLo⟩ => ?_
  refine (h1.memRead hp .pointer _).bind fun hi _ ⟨h2, readHi⟩ => ?_
  exact (h2.updCpu _).mono fun _ _ h3 => ⟨lo, hi, readLo, readHi, h3⟩

/-- JSR: PC is pushed, and the target's high byte is read at PC after that (R535). -/
theorem jumpSubroutine_completes (hp : s.production) (hc : s.canonical) (w : Word) :
    Completes (jumpSubroutine w) s fun _ t => ∃ d hh, ∀ ws,
      ws = [(stackAddr s.cpu.s, hiByte s.cpu.pc), (stackAddr (s.cpu.s - 1#8), loByte s.cpu.pc)] →
      s.ReadsAfter ws s.cpu.pc hh
      ∧ Ran s ws [readRec s 0 .dummy (stackAddr s.cpu.s) d,
          writeRec s 1 .stack (stackAddr s.cpu.s) (hiByte s.cpu.pc),
          writeRec s 2 .stack (stackAddr (s.cpu.s - 1#8)) (loByte s.cpu.pc),
          readRec s 3 .operand s.cpu.pc hh]
        { s.cpu with s := s.cpu.s - 2#8, pc := mkWord hh (loByte w) } t := by
  have two : s.cpu.s - 1#8 - 1#8 = s.cpu.s - 2#8 := by bv_omega
  refine ((Ran.refl hc).dummyStack hp).bind fun _ t ⟨d, h1⟩ => ?_
  refine (h1.getCpu (Q := fun c u => s.cpu = c ∧ t = u) ⟨rfl, rfl⟩).bind ?_
  rintro _ _ ⟨rfl, rfl⟩
  refine (h1.push hp _).bind fun _ _ h2 => (h2.push hp _).bind fun _ _ h3 => ?_
  rw [two] at h3
  refine (h3.memRead hp .operand _).bind fun hh _ ⟨h4, readHigh⟩ => ?_
  refine (h4.updCpu _).mono fun _ _ h5 => ⟨d, hh, ?_⟩
  rintro _ rfl
  exact ⟨readHigh, h5⟩

/-- RTS: the word the two pulls give, and one dummy read there before 1 is added (R536). -/
theorem returnSubroutine_completes (hp : s.production) (hc : s.canonical) :
    Completes returnSubroutine s fun _ t => ∃ d e f lo hi,
      s.ReadsAfter [] (stackAddr (s.cpu.s + 1#8)) lo ∧ s.ReadsAfter [] (stackAddr (s.cpu.s + 2#8)) hi
      ∧ Ran s [] [readRec s 0 .dummy s.cpu.pc d, readRec s 1 .dummy (stackAddr s.cpu.s) e,
          readRec s 2 .stack (stackAddr (s.cpu.s + 1#8)) lo,
          readRec s 3 .stack (stackAddr (s.cpu.s + 2#8)) hi, readRec s 4 .dummy (mkWord hi lo) f]
        { s.cpu with s := s.cpu.s + 2#8, pc := mkWord hi lo + 1#16 } t := by
  have two : s.cpu.s + 1#8 + 1#8 = s.cpu.s + 2#8 := by bv_omega
  refine ((Ran.refl hc).dummyPc hp).bind fun _ _ ⟨d, h1⟩ => (h1.dummyStack hp).bind fun _ _ ⟨e, h2⟩ => ?_
  refine (h2.pull hp).bind fun lo _ ⟨h3, readLo⟩ => (h3.pull hp).bind fun hi _ ⟨h4, readHi⟩ => ?_
  rw [two] at h4 readHi
  refine (h4.updCpu fun c => { c with pc := mkWord hi lo }).bind fun _ _ h5 => ?_
  refine (h5.dummyPc hp).bind fun _ _ ⟨f, h6⟩ => ?_
  exact (h6.updCpu _).mono fun _ _ h7 => ⟨d, e, f, lo, hi, readLo, readHi, h7⟩

/-! ## BRK and RTI -/

/-- BRK: the exception is taken from the address after the padding byte (R540). -/
theorem softwareInterrupt_completes (hp : s.production) (hc : s.canonical) :
    Completes softwareInterrupt s fun _ t => ∃ d lo hi, ∀ ws,
      ws = [(stackAddr s.cpu.s, hiByte (s.cpu.pc + 1#16)),
        (stackAddr (s.cpu.s - 1#8), loByte (s.cpu.pc + 1#16)),
        (stackAddr (s.cpu.s - 2#8), s.cpu.pByte true)] →
      s.ReadsAfter ws 0xFFFE#16 lo ∧ s.ReadsAfter ws 0xFFFF#16 hi
      ∧ Ran s ws [readRec s 0 .operand s.cpu.pc d,
          writeRec s 1 .stack (stackAddr s.cpu.s) (hiByte (s.cpu.pc + 1#16)),
          writeRec s 2 .stack (stackAddr (s.cpu.s - 1#8)) (loByte (s.cpu.pc + 1#16)),
          writeRec s 3 .stack (stackAddr (s.cpu.s - 2#8)) (s.cpu.pByte true),
          readRec s 4 .vector 0xFFFE#16 lo, readRec s 5 .vector 0xFFFF#16 hi]
        { s.cpu with s := s.cpu.s - 3#8, flagI := true, pc := mkWord hi lo } t := by
  have two : s.cpu.s - 1#8 - 1#8 = s.cpu.s - 2#8 := by bv_omega
  have three : s.cpu.s - 2#8 - 1#8 = s.cpu.s - 3#8 := by bv_omega
  refine ((Ran.refl hc).fetch hp).bind fun d _ ⟨h1, _⟩ => ?_
  refine (h1.takeException hp true Config.irqVector).mono fun _ _ ⟨lo, hi, h2⟩ =>
    ⟨d, lo, hi, fun ws hws => ?_⟩
  dsimp only at h2
  rw [two, three] at h2
  exact h2 ws hws

/-- RTI: two dummy reads, then the return (R537). -/
theorem returnInterrupt_completes (hp : s.production) (hc : s.canonical) :
    Completes returnInterrupt s fun _ t => ∃ d e p lo hi,
      s.ReadsAfter [] (stackAddr (s.cpu.s + 1#8)) p ∧ s.ReadsAfter [] (stackAddr (s.cpu.s + 2#8)) lo
      ∧ s.ReadsAfter [] (stackAddr (s.cpu.s + 3#8)) hi
      ∧ Ran s [] [readRec s 0 .dummy s.cpu.pc d, readRec s 1 .dummy (stackAddr s.cpu.s) e,
          readRec s 2 .stack (stackAddr (s.cpu.s + 1#8)) p,
          readRec s 3 .stack (stackAddr (s.cpu.s + 2#8)) lo,
          readRec s 4 .stack (stackAddr (s.cpu.s + 3#8)) hi]
        { s.cpu.setP p with s := s.cpu.s + 3#8, pc := mkWord hi lo } t := by
  have two : s.cpu.s + 1#8 + 1#8 = s.cpu.s + 2#8 := by bv_omega
  have three : s.cpu.s + 2#8 + 1#8 = s.cpu.s + 3#8 := by bv_omega
  refine ((Ran.refl hc).dummyPc hp).bind fun _ _ ⟨d, h1⟩ => (h1.dummyStack hp).bind fun _ _ ⟨e, h2⟩ => ?_
  refine (h2.returnFromException hp).mono fun _ _ ⟨p, lo, hi, h3⟩ => ⟨d, e, p, lo, hi, ?_⟩
  rwa [two, three] at h3

/-! ## What peek finds after several writes -/

/-- A byte after one more write: the last write to it decides (R161). -/
theorem State.byteAfter_concat (s : State) (ws : List (Word × Byte)) (w : Word × Byte) (id off : Nat) :
    s.byteAfter (ws ++ [w]) id off
      = if s.target w.1 = .store .ram id off ∧ s.hasStore id = true then w.2
        else s.byteAfter ws id off := by
  simp only [State.byteAfter, List.foldl_append, List.foldl_cons, List.foldl_nil]

/-- Among writes to distinct bytes each leaves its own value (R161). -/
theorem State.byteAfter_of_mem {a : Word} {v : Byte} {id off : Nat}
    (ht : s.target a = .store .ram id off) (present : s.hasStore id = true) {ws : List (Word × Byte)}
    (distinct : ws.Pairwise fun x y => s.target x.1 ≠ s.target y.1) (mem : (a, v) ∈ ws) :
    s.byteAfter ws id off = v := by
  induction ws using List.reverseRecOn with
  | nil => cases mem
  | append_singleton ws w ih =>
    obtain ⟨before, -, apart⟩ := List.pairwise_append.1 distinct
    rw [State.byteAfter_concat]
    rcases List.mem_append.1 mem with earlier | last
    · have elsewhere : s.target w.1 ≠ .store .ram id off := fun h =>
        apart _ earlier w (List.mem_singleton_self w) (ht.trans h.symm)
      rw [if_neg fun h => elsewhere h.1, ih before earlier]
    · obtain rfl := List.mem_singleton.1 last
      exact if_pos ⟨ht, present⟩

/-- After writes to distinct bytes each writable address peeks as what was written there. -/
theorem WriteFrame.peek_of_mem {t : State} {ws : List (Word × Byte)} (h : WriteFrame s ws t) {a : Word}
    {v : Byte} (distinct : ws.Pairwise fun x y => s.target x.1 ≠ s.target y.1) (mem : (a, v) ∈ ws)
    (ha : s.writable a) : t.peek a = v := by
  obtain ⟨id, off, ht, present⟩ := ha
  rw [h.peek_store ht, State.byteAfter_of_mem ht present distinct mem]

/-- A writable address is a byte of a store, also in every state of the same mapping table. -/
theorem State.writable.plain {t : State} {a : Word} (h : s.writable a) (maps : t.bus.maps = s.bus.maps) :
    t.plain a := by
  obtain ⟨id, off, ht, -⟩ := h
  rw [State.plain, State.target, maps, ← State.target, ht]
  rfl

/-! ## A call and its return -/

/-- JSR leaves the two bytes of its PC on the stack, where they are distinct bytes of RAM (R535). -/
theorem jumpSubroutine_leaves_pc {t : State} {w : Word} (hp : s.production) (hc : s.canonical)
    (top : s.writable (stackAddr s.cpu.s)) (below : s.writable (stackAddr (s.cpu.s - 1#8)))
    (apart : s.target (stackAddr s.cpu.s) ≠ s.target (stackAddr (s.cpu.s - 1#8)))
    (call : exec (.jsrAbs w) s = .next t) :
    t.bus.maps = s.bus.maps ∧ t.cpu.s = s.cpu.s - 2#8
      ∧ t.peek (stackAddr s.cpu.s) = hiByte s.cpu.pc
      ∧ t.peek (stackAddr (s.cpu.s - 1#8)) = loByte s.cpu.pc := by
  obtain ⟨t', called, _, hh, called_ran⟩ := outcome_of_completes (jumpSubroutine_completes hp hc w)
  obtain rfl : t' = t := Host.Outcome.next.inj (called.symm.trans call)
  obtain ⟨-, ran⟩ := called_ran _ rfl
  have distinct : [(stackAddr s.cpu.s, hiByte s.cpu.pc),
      (stackAddr (s.cpu.s - 1#8), loByte s.cpu.pc)].Pairwise fun x y => s.target x.1 ≠ s.target y.1 :=
    List.pairwise_pair.2 apart
  exact ⟨ran.frame.others.maps, congrArg Cpu.s ran.cpu,
    ran.frame.peek_of_mem distinct (List.mem_cons_self ..) top,
    ran.frame.peek_of_mem distinct (List.mem_cons_of_mem _ (List.mem_singleton_self _)) below⟩

/-- RTS from stack bytes in stores resumes behind the word that `peek` finds there (R536). -/
theorem returnSubroutine_resumes {pc : Word} (hp : s.production) (hc : s.canonical)
    (low : s.plain (stackAddr (s.cpu.s + 1#8))) (high : s.plain (stackAddr (s.cpu.s + 2#8)))
    (lowByte : s.peek (stackAddr (s.cpu.s + 1#8)) = loByte pc)
    (highByte : s.peek (stackAddr (s.cpu.s + 2#8)) = hiByte pc) :
    ∃ t, exec .rts s = .next t ∧ t.cpu = { s.cpu with pc := pc + 1#16, s := s.cpu.s + 2#8 } := by
  obtain ⟨t, returned, _, _, _, lo, hi, readLo, readHi, ran⟩ :=
    outcome_of_completes (returnSubroutine_completes hp hc)
  refine ⟨t, returned, ?_⟩
  rw [ran.cpu, (readLo.peek low).trans lowByte, (readHi.peek high).trans highByte, mkWord_bytes]

end

/-! ## The statements -/

/-- Settles O17: each branch is the branch class under its flag. -/
theorem branchesComplete : Obligations.BranchesComplete := by
  intro s off target hp hc ht
  simp only [List.forall_mem_cons]
  exact ⟨branch_completes hp hc ht fun c => !c.flagN, branch_completes hp hc ht fun c => c.flagN,
    branch_completes hp hc ht fun c => !c.flagV, branch_completes hp hc ht fun c => c.flagV,
    branch_completes hp hc ht fun c => !c.flagC, branch_completes hp hc ht fun c => c.flagC,
    branch_completes hp hc ht fun c => !c.flagZ, branch_completes hp hc ht fun c => c.flagZ,
    List.forall_mem_nil _⟩

/-- Settles O18: JMP absolute is one assignment, and JMP indirect two reads before it. -/
theorem jumpsComplete : Obligations.JumpsComplete := by
  intro s w hp hc
  refine ⟨⟨.of_row rfl rfl rfl, rfl⟩, .of_row rfl rfl rfl, ?_⟩
  obtain ⟨t, ht, lo, hi, readLo, readHi, ran⟩ := outcome_of_completes (jumpIndirect_completes hp hc w)
  exact ⟨lo, hi, t, ht, readLo, readHi, ran⟩

/-- Settles O19, by the accesses of JSR and of RTS. -/
theorem subroutinesComplete : Obligations.SubroutinesComplete := by
  intro s w hp hc
  refine ⟨fun ws hws => ⟨.of_row rfl rfl rfl, ?jsr⟩, .of_row rfl rfl rfl, ?rts⟩
  case jsr =>
    obtain ⟨t, ht, d, hh, called⟩ := outcome_of_completes (jumpSubroutine_completes hp hc w)
    exact ⟨d, hh, t, ht, called ws hws⟩
  case rts =>
    obtain ⟨t, ht, d, e, f, lo, hi, returned⟩ := outcome_of_completes (returnSubroutine_completes hp hc)
    exact ⟨d, e, f, lo, hi, t, ht, returned⟩

/-- Settles O20, by the accesses of BRK and of RTI. -/
theorem breakAndReturnComplete : Obligations.BreakAndReturnComplete := by
  intro s hp hc
  refine ⟨fun ws hws => ⟨.of_row rfl rfl rfl, ?brk⟩, .of_row rfl rfl rfl, ?rti⟩
  case brk =>
    obtain ⟨t, ht, d, lo, hi, taken⟩ := outcome_of_completes (softwareInterrupt_completes hp hc)
    exact ⟨d, lo, hi, t, ht, taken ws hws⟩
  case rti =>
    obtain ⟨t, ht, d, e, p, lo, hi, returned⟩ := outcome_of_completes (returnInterrupt_completes hp hc)
    exact ⟨d, e, p, lo, hi, t, ht, returned⟩

/-- Settles O36: JSR leaves the two bytes of its PC where RTS pulls them. -/
theorem callThenReturnResumes : Obligations.CallThenReturnResumes := by
  intro w s t u hp hc writable apart call hpu hcu maps stack peeks
  have top := writable 0 (by decide)
  have below := writable 1 (by decide)
  have peekTop := peeks 0 (by decide)
  have peekBelow := peeks 1 (by decide)
  rw [BitVec.sub_zero] at top peekTop
  obtain ⟨callMaps, callStack, pushedHigh, pushedLow⟩ :=
    jumpSubroutine_leaves_pc hp hc top below apart call
  have sameMaps : u.bus.maps = s.bus.maps := maps.trans callMaps
  have first : u.cpu.s + 1#8 = s.cpu.s - 1#8 := by rw [stack, callStack]; bv_omega
  have second : u.cpu.s + 2#8 = s.cpu.s := by rw [stack, callStack]; bv_omega
  have resumed := returnSubroutine_resumes (pc := s.cpu.pc) hpu hcu
  rw [first, second] at resumed
  exact resumed (below.plain sameMaps) (top.plain sameMaps) (peekBelow.trans pushedLow)
    (peekTop.trans pushedHigh)

end Sys2Proof.Machine
end

section
/-! Stack, flag and no-operation instructions (44_stack_flags_misc.md): the push and pull templates, said once
for any byte pushed and any operation on the byte pulled. The flag instructions and NOP are the implied
class. -/

namespace Sys2Proof.Machine

/-! ## Pushes and pulls -/

section

variable {s : State}

/-- The push template: one dummy read at PC, then the byte goes to the stack (R332). -/
theorem pushClass_completes (hp : s.production) (hc : s.canonical) (value : Cpu → Byte) :
    Completes (pushClass value) s fun _ t => ∃ d,
      Ran s [(stackAddr s.cpu.s, value s.cpu)] [readRec s 0 .dummy s.cpu.pc d,
          writeRec s 1 .stack (stackAddr s.cpu.s) (value s.cpu)]
        { s.cpu with s := s.cpu.s - 1#8 } t := by
  refine ((Ran.refl hc).dummyPc hp).bind fun _ t ⟨d, h1⟩ => ?_
  refine (h1.getCpu (Q := fun c u => s.cpu = c ∧ t = u) ⟨rfl, rfl⟩).bind ?_
  rintro _ _ ⟨rfl, rfl⟩
  exact (h1.push hp _).mono fun _ _ h2 => ⟨d, h2⟩

/-- The pull template: dummy reads at PC and at the stack address, then the byte above it meets the
operation (R332). -/
theorem pullClass_completes (hp : s.production) (hc : s.canonical) (op : Byte → Cpu → Cpu) :
    Completes (pullClass op) s fun _ t => ∃ d e v, s.ReadsAfter [] (stackAddr (s.cpu.s + 1#8)) v
      ∧ Ran s [] [readRec s 0 .dummy s.cpu.pc d, readRec s 1 .dummy (stackAddr s.cpu.s) e,
          readRec s 2 .stack (stackAddr (s.cpu.s + 1#8)) v]
        (op v { s.cpu with s := s.cpu.s + 1#8 }) t := by
  refine ((Ran.refl hc).dummyPc hp).bind fun _ _ ⟨d, h1⟩ => (h1.dummyStack hp).bind fun _ _ ⟨e, h2⟩ => ?_
  refine (h2.pull hp).bind fun v _ ⟨h3, pulled⟩ => ?_
  exact (h3.updCpu (op v)).mono fun _ _ h4 => ⟨d, e, v, pulled, h4⟩

/-- An instruction whose meaning is the push template completes with its byte on the stack. -/
theorem pushInstr_completes {i : Instr} {opcode : Byte} (hp : s.production) (hc : s.canonical)
    (value : Cpu → Byte) (executed : exec i s = outcome (pushClass value) s := by rfl)
    (own : i.opcode = opcode := by rfl) (cycles : (rowOf opcode).cycles = 3 := by rfl)
    (penalty : (rowOf opcode).pagePenalty = false := by rfl) :
    Encodes i opcode 3 false ∧
      ∃ d t, exec i s = .next t
        ∧ Ran s [(stackAddr s.cpu.s, value s.cpu)] [readRec s 0 .dummy s.cpu.pc d,
            writeRec s 1 .stack (stackAddr s.cpu.s) (value s.cpu)]
          { s.cpu with s := s.cpu.s - 1#8 } t := by
  obtain ⟨t, ht, d, ran⟩ := outcome_of_completes (pushClass_completes hp hc value)
  exact ⟨.of_row own cycles penalty, d, t, executed.trans ht, ran⟩

/-- An instruction whose meaning is the pull template completes with what its operation leaves once S has
moved up. -/
theorem pullInstr_completes {i : Instr} {opcode : Byte} {op : Byte → Cpu → Cpu} {after : Byte → Cpu}
    (hp : s.production) (hc : s.canonical)
    (op_eq : ∀ v, op v { s.cpu with s := s.cpu.s + 1#8 } = after v)
    (executed : exec i s = outcome (pullClass op) s := by rfl)
    (own : i.opcode = opcode := by rfl) (cycles : (rowOf opcode).cycles = 4 := by rfl)
    (penalty : (rowOf opcode).pagePenalty = false := by rfl) :
    Encodes i opcode 4 false ∧
      ∃ d e v t, exec i s = .next t ∧ s.ReadsAfter [] (stackAddr (s.cpu.s + 1#8)) v
        ∧ Ran s [] [readRec s 0 .dummy s.cpu.pc d, readRec s 1 .dummy (stackAddr s.cpu.s) e,
            readRec s 2 .stack (stackAddr (s.cpu.s + 1#8)) v] (after v) t := by
  obtain ⟨t, ht, d, e, v, pulled, ran⟩ := outcome_of_completes (pullClass_completes hp hc op)
  rw [op_eq] at ran
  exact ⟨.of_row own cycles penalty, d, e, v, t, executed.trans ht, pulled, ran⟩

end

/-! ## The statements -/

/-- Settles O21: PHA and PHP push A and P with B = 1; PLA loads the byte pulled, PLP takes its flags from it. -/
theorem stackComplete : Obligations.StackComplete := fun _ hp hc =>
  ⟨pushInstr_completes hp hc Cpu.a, pushInstr_completes hp hc (Cpu.pByte true),
    pullInstr_completes hp hc fun v => Cpu.loadA_eq v _,
    pullInstr_completes (op := Cpu.setP) hp hc fun _ => rfl⟩

/-- Settles O22: each is the implied class, with an assignment of one flag, or with nothing for NOP. -/
theorem flagsAndNopComplete : Obligations.FlagsAndNopComplete := fun _ hp =>
  ⟨implied_completes hp fun _ => rfl, implied_completes hp fun _ => rfl,
    implied_completes hp fun _ => rfl, implied_completes hp fun _ => rfl,
    implied_completes hp fun _ => rfl, implied_completes hp fun _ => rfl,
    implied_completes hp fun _ => rfl, implied_completes hp fun _ => rfl⟩

end Sys2Proof.Machine
end

section
/-! The undocumented opcodes (45_undocumented.md). All but the high stores are the classes of the documented
opcodes under operations of their own, so each table completes where the templates of its modes do. SHA, SHX,
SHY and TAS share one store, whose byte and address R644 gives. -/

namespace Sys2Proof.Machine

/-! ## Tables of forms -/

/-- A table of combined read-modify-write forms, each the class of one shift and one combination: `new` is the
byte the shift stores, and `after` what combining it with A leaves (R330). -/
theorem combinedForms_modify {forms : List StoreForm} {shift : Byte → Cpu → Byte × Cpu}
    {combine after : Byte → Cpu → Cpu} {new : Byte → Cpu → Byte} {s : State} (hp : s.production)
    (hc : s.canonical) (stored : ∀ m c, (shift m c).1 = new m c)
    (combined : ∀ m c, combine (shift m c).1 (shift m c).2 = after m c)
    (templates : ∀ p ∈ forms.map StoreForm.address, Completes p s fun _ t => ∃ recs, RanReads s recs t)
    (executed : forms.map (fun f => exec f.instr s)
      = forms.map (fun f => outcome (rmwClass f.address shift combine) s) := by rfl)
    (encoded : forms.map (fun f => (f.instr.opcode, (rowOf f.opcode).cycles, (rowOf f.opcode).pagePenalty))
      = forms.map (fun f => (f.opcode, f.cycles, false)) := by
        simp only [List.map_cons, List.map_nil]; rfl) :
    ∀ f ∈ forms, f.modifies new after s := by
  intro f hf
  have row := List.map_inj_left.1 encoded f hf
  simp only [Prod.mk.injEq] at row
  obtain ⟨opcode, cycles, penalty⟩ := row
  exact StoreForm.modifies_of hp hc (templates _ (List.mem_map_of_mem hf))
    (List.map_inj_left.1 executed f hf) (.of_row opcode cycles penalty) (fun m => stored m s.cpu)
    fun m => combined m s.cpu

/-- A table of implied instructions of one operation (R311). -/
theorem impliedForms_complete {forms : List (Instr × Byte)} {s : State} (hp : s.production)
    (op : Cpu → Cpu)
    (executed : forms.map (fun f => exec f.1 s) = forms.map (fun _ => outcome (impliedClass op) s) := by rfl)
    (encoded : forms.map (fun f => (f.1.opcode, (rowOf f.2).cycles, (rowOf f.2).pagePenalty))
      = forms.map (fun f => (f.2, 2, false)) := by
        simp only [List.map_cons, List.map_nil]; rfl) :
    ∀ f ∈ forms, ImpliedCompletes f.1 f.2 op s := by
  intro f hf
  have row := List.map_inj_left.1 encoded f hf
  simp only [Prod.mk.injEq] at row
  obtain ⟨opcode, cycles, penalty⟩ := row
  exact implied_completes hp (fun _ => rfl) (List.map_inj_left.1 executed f hf) opcode cycles penalty

section
variable {s : State} (hp : s.production) (b1 : Byte) (w : Word)
include hp

/-- The templates of the seven modes of a combined read-modify-write instruction only read. -/
theorem combinedTemplates_read :
    ∀ p ∈ [addrIndx b1, addrZp b1, addrAbs w, addrIndy b1, addrZpx b1, addrAbsy w, addrAbsx w],
      Completes p s fun _ t => ∃ recs, RanReads s recs t := by
  simp only [List.forall_mem_cons]
  exact ⟨addrIndx_reads hp b1, addrZp_reads s b1, addrAbs_reads s w, addrIndy_reads hp b1,
    addrZpx_reads hp b1, addrAbsy_reads hp w, addrAbsx_reads hp w, List.forall_mem_nil _⟩

/-- The templates of the six modes of LAX only read. -/
theorem laxTemplates_frame :
    ∀ p ∈ [readIndx b1, readZp b1, readAbs w, readIndy b1, readZpy b1, readAbsy w],
      Completes p s fun _ t => ReadFrame s t := by
  simp only [List.forall_mem_cons]
  exact ⟨readIndx_frame hp b1, readZp_frame hp b1, readAbs_frame hp w, readIndy_frame hp b1,
    readZpy_frame hp b1, readAbsy_frame hp w, List.forall_mem_nil _⟩

/-- The templates of the five modes of the undocumented NOPs only read. -/
theorem nopTemplates_frame :
    ∀ p ∈ [readZp b1, readAbs w, readZpx b1, readAbsx w, readImm b1],
      Completes p s fun _ t => ReadFrame s t := by
  simp only [List.forall_mem_cons]
  exact ⟨readZp_frame hp b1, readAbs_frame hp w, readZpx_frame hp b1, readAbsx_frame hp w,
    readImm_frame s b1, List.forall_mem_nil _⟩

end

/-- The template of an immediate operand reads nothing (R312). -/
theorem immTemplate_frame (s : State) (b1 : Byte) :
    ∀ p ∈ [readImm b1], Completes p s fun _ t => ReadFrame s t :=
  List.forall_mem_singleton.2 (readImm_frame s b1)

/-! ## What the operations leave -/

/-- A shift to the right leaves bit 7 clear. -/
theorem getLsbD_seven_shiftRight (t : Byte) : (t >>> 1).getLsbD 7 = false := by
  rw [BitVec.getLsbD_ushiftRight]
  exact BitVec.getLsbD_of_ge t _ (by decide)

/-- ALR: N is clear, because the shift empties bit 7 (R634). -/
theorem Cpu.alrOp_eq (m : Byte) (c : Cpu) :
    c.alrOp m = { c with
      a := (c.a &&& m) >>> 1
      flagN := false
      flagZ := decide ((c.a &&& m) >>> 1 = 0#8)
      flagC := (c.a &&& m).getLsbD 0 } := by
  simp only [Cpu.alrOp, Cpu.loadA_eq, getLsbD_seven_shiftRight]

/-- SBX: Z says whether `A & X` and the operand are equal (R637). -/
theorem Cpu.sbxOp_eq (m : Byte) (c : Cpu) :
    c.sbxOp m = { c with
      x := (c.a &&& c.x) - m
      flagN := ((c.a &&& c.x) - m).getLsbD 7
      flagZ := decide (c.a &&& c.x = m)
      flagC := decide (m.toNat ≤ (c.a &&& c.x).toNat) } := by
  have zero : ((c.a &&& c.x) - m = 0#8) = (c.a &&& c.x = m) := propext sub_eq_zero
  simp only [Cpu.sbxOp, Cpu.loadX_eq, zero]

/-- What ARR rotates: `A & M` shifted right, with the old C at bit 7 (R636). -/
def Cpu.arrRotated (m : Byte) (c : Cpu) : Byte := (if c.flagC then 0x80#8 else 0#8) ||| ((c.a &&& m) >>> 1)

/-- Bit 7 of the rotation is the old C. -/
theorem Cpu.getLsbD_seven_arrRotated (m : Byte) (c : Cpu) : (c.arrRotated m).getLsbD 7 = c.flagC := by
  rw [Cpu.arrRotated, BitVec.getLsbD_or, getLsbD_seven_shiftRight, Bool.or_false]
  cases c.flagC <;> rfl

/-- ARR with D clear: N is the old C, and C and V come from bits 6 and 5 of the rotation (R636). -/
theorem Cpu.arrOp_of_binary {c : Cpu} (binary : c.flagD = false) (m : Byte) :
    c.arrOp m = { c with
      a := c.arrRotated m
      flagN := c.flagC
      flagZ := decide (c.arrRotated m = 0#8)
      flagC := (c.arrRotated m).getLsbD 6
      flagV := (c.arrRotated m).getLsbD 6 != (c.arrRotated m).getLsbD 5 } := by
  rw [Cpu.arrOp, if_neg (by simp [binary]), Cpu.arrBinary, bitByte_shiftLeft_seven]
  rw [← Cpu.arrRotated, Cpu.setNZ_eq, Cpu.getLsbD_seven_arrRotated]

/-- ARR with D set: the digits of `A & M` say which digits of the rotation are adjusted; N, Z and V are as
before the adjustment (R636). -/
theorem Cpu.arrOp_of_decimal {c : Cpu} (decimal : c.flagD = true) (m : Byte) :
    c.arrOp m =
      let t := c.a &&& m
      let r := c.arrRotated m
      let low := decide (0x05 < (t &&& 0x0F#8).toNat + (t &&& 0x01#8).toNat)
      let r1 := if low then (r &&& 0xF0#8) ||| ((r + 0x06#8) &&& 0x0F#8) else r
      let high := decide (0x50 < (t &&& 0xF0#8).toNat + (t &&& 0x10#8).toNat)
      { c with
        flagN := c.flagC
        flagZ := decide (r = 0#8)
        flagV := (r ^^^ t).getLsbD 6
        flagC := high
        a := if high then (r1 &&& 0x0F#8) ||| ((r1 + 0x60#8) &&& 0xF0#8) else r1 } := by
  rw [Cpu.arrOp, if_pos decimal, Cpu.arrDecimal, bitByte_shiftLeft_seven]
  rfl

/-! ## High stores -/

section
variable {s : State}

/-- The byte a high store writes: the register and `H + 1`, `H` the high byte of the base address (R644). -/
def highStoreValue (base : Word) (reg : Byte) : Byte := reg &&& (hiByte base + 1#8)

/-- The address a high store writes the byte `v` at: the effective address, whose high byte `v` replaces on a
page crossing with `SHX_PAGE_QUIRK` (R644). -/
def State.highStoreAddress (s : State) (base : Word) (index v : Byte) : Word :=
  if crosses (loByte base) index && s.config.shxPageQuirk then mkWord v (loByte (base + zext16 index))
  else base + zext16 index

/-- The store of SHA, SHX, SHY and TAS, after a part of the instruction (R644). -/
theorem Ran.storeHigh {t : State} {ws : List (Word × Byte)} {recs : List AccessRecord} {c : Cpu}
    (hp : s.production) (h : Ran s ws recs c t) (base : Word) (index : Byte) (reg : Cpu → Byte)
    {v : Byte} {a : Word} (hv : v = highStoreValue base (reg c)) (ha : a = s.highStoreAddress base index v) :
    Completes (Machine.storeHigh (indexed base index) reg) t fun _ u =>
      Ran s (ws ++ [(a, v)]) (recs ++ [writeRec s recs.length .data a v]) c u := by
  subst hv ha
  refine (Completes.getConfig (Q := fun cfg u => s.config = cfg ∧ t = u)
    ⟨h.frame.others.config.symm, rfl⟩).bind ?_
  rintro _ _ ⟨rfl, rfl⟩
  refine (h.getCpu (Q := fun d u => c = d ∧ t = u) ⟨rfl, rfl⟩).bind ?_
  rintro _ _ ⟨rfl, rfl⟩
  exact h.memWrite hp .data _ _

/-- The dummy read at the unfixed address before a high store (R331, R644). -/
theorem RanReads.addrIndexed {t : State} {recs : List AccessRecord} (hp : s.production) (hc : s.canonical)
    (h : RanReads s recs t) (base : Word) (index : Byte) :
    Completes (Machine.addrIndexed (indexed base index)) t fun _ u => ∃ d,
      Ran s [] (recs ++ [readRec s recs.length .dummy (mkWord (hiByte base) (loByte base + index)) d])
        s.cpu u :=
  (addrIndexed_after hp h (indexed base index)).mono fun _ _ ⟨_, d, ran⟩ => ⟨d, ran.ran hc⟩

/-- SHA, SHX and SHY with an absolute base: the dummy read, then the store (R645 to R647). -/
theorem highStoreAbs_completes (hp : s.production) (hc : s.canonical) (w : Word) (index reg : Cpu → Byte)
    {v : Byte} {a : Word} (hv : v = highStoreValue w (reg s.cpu))
    (ha : a = s.highStoreAddress w (index s.cpu) v) :
    Completes (highStoreAbs w index reg) s fun _ t => ∃ d,
      Ran s [(a, v)] [readRec s 0 .dummy (mkWord (hiByte w) (loByte w + index s.cpu)) d,
        writeRec s 1 .data a v] s.cpu t := by
  refine (Completes.getCpu (Q := fun c t => s.cpu = c ∧ s = t) ⟨rfl, rfl⟩).bind ?_
  rintro _ _ ⟨rfl, rfl⟩
  refine ((RanReads.refl s).addrIndexed hp hc w _).bind fun _ _ ⟨d, h1⟩ => ?_
  exact (h1.storeHigh hp w _ reg hv ha).mono fun _ _ h2 => ⟨d, h2⟩

/-- TAS: S takes `A & X` between the dummy read and the store, which then is of S (R648). -/
theorem transferAndStore_completes (hp : s.production) (hc : s.canonical) (w : Word) {v : Byte} {a : Word}
    (hv : v = highStoreValue w (s.cpu.a &&& s.cpu.x)) (ha : a = s.highStoreAddress w s.cpu.y v) :
    Completes (transferAndStore w) s fun _ t => ∃ d,
      Ran s [(a, v)] [readRec s 0 .dummy (mkWord (hiByte w) (loByte w + s.cpu.y)) d,
        writeRec s 1 .data a v] { s.cpu with s := s.cpu.a &&& s.cpu.x } t := by
  refine (Completes.getCpu (Q := fun c t => s.cpu = c ∧ s = t) ⟨rfl, rfl⟩).bind ?_
  rintro _ _ ⟨rfl, rfl⟩
  refine ((RanReads.refl s).addrIndexed hp hc w _).bind fun _ _ ⟨d, h1⟩ => ?_
  refine (h1.updCpu fun c => { c with s := c.a &&& c.x }).bind fun _ _ h2 => ?_
  exact (h2.storeHigh hp w _ Cpu.s hv ha).mono fun _ _ h3 => ⟨d, h3⟩

/-- SHA with a zero-page pointer: its base is the word the pointer reads give (R645). -/
theorem highStoreInd_completes (hp : s.production) (hc : s.canonical) (b1 : Byte) (reg : Cpu → Byte) :
    Completes (highStoreInd b1 reg) s fun _ t => ∃ lo hi d,
      s.ReadsAfter [] (zext16 b1) lo ∧ s.ReadsAfter [] (zext16 (b1 + 1#8)) hi
      ∧ ∀ v a, v = reg s.cpu &&& (hi + 1#8) → a = s.highStoreAddress (mkWord hi lo) s.cpu.y v →
        Ran s [(a, v)] [readRec s 0 .pointer (zext16 b1) lo, readRec s 1 .pointer (zext16 (b1 + 1#8)) hi,
          readRec s 2 .dummy (mkWord hi (lo + s.cpu.y)) d, writeRec s 3 .data a v] s.cpu t := by
  refine (Completes.getCpu (Q := fun c t => s.cpu = c ∧ s = t) ⟨rfl, rfl⟩).bind ?_
  rintro _ _ ⟨rfl, rfl⟩
  refine (pointerY_completes hp b1).bind ?_
  rintro _ _ ⟨lo, hi, rfl, readLo, readHi, h1⟩
  refine (h1.addrIndexed hp hc _ _).bind fun _ _ ⟨d, h2⟩ => ?_
  refine (h2.storeHigh hp _ _ reg rfl rfl).mono fun _ _ h3 => ⟨lo, hi, d, readLo, readHi, ?_⟩
  rw [highStoreValue, hiByte_mkWord, loByte_mkWord] at h3
  rintro _ _ rfl rfl
  exact h3

/-- An instruction whose meaning is a high store at an absolute base completes with it. -/
theorem highStore_completes {i : Instr} {opcode index v : Byte} {part : M Unit} {a w : Word} {after : Cpu}
    (h : Completes part s fun _ t => ∃ d,
      Ran s [(a, v)] [readRec s 0 .dummy (mkWord (hiByte w) (loByte w + index)) d, writeRec s 1 .data a v]
        after t)
    (executed : exec i s = outcome part s := by rfl)
    (own : i.opcode = opcode := by rfl) (cycles : (rowOf opcode).cycles = 5 := by rfl)
    (penalty : (rowOf opcode).pagePenalty = false := by rfl) :
    Encodes i opcode 5 false ∧ ∃ d t, exec i s = .next t
      ∧ Ran s [(a, v)] [readRec s 0 .dummy (mkWord (hiByte w) (loByte w + index)) d, writeRec s 1 .data a v]
        after t := by
  obtain ⟨t, ht, d, ran⟩ := outcome_of_completes h
  exact ⟨.of_row own cycles penalty, d, t, executed.trans ht, ran⟩

end

/-! ## The statements -/

/-- Settles O23: each form is the read-modify-write class of its shift or step over the template of its mode,
and it combines the byte stored with A as ORA, AND, EOR, ADC, CMP or SBC do. -/
theorem combinedModifiesComplete : Obligations.CombinedModifiesComplete := by
  intro s b1 w hp hc
  have templates := combinedTemplates_read hp b1 w
  refine ⟨?slo, ?rla, ?sre, ?rra, ?dcp, ?isc⟩
  case slo =>
    exact combinedForms_modify (shift := Cpu.sloShift) (combine := Cpu.oraOp) hp hc (fun _ _ => rfl)
      (fun _ _ => Cpu.loadA_eq _ _) templates
  case rla =>
    exact combinedForms_modify (shift := Cpu.rlaShift) (combine := Cpu.andOp) hp hc (fun _ _ => rfl)
      (fun _ _ => Cpu.loadA_eq _ _) templates
  case sre =>
    exact combinedForms_modify (shift := Cpu.sreShift) (combine := Cpu.eorOp) hp hc (fun _ _ => rfl)
      (fun _ _ => Cpu.loadA_eq _ _) templates
  case rra =>
    have stored (m : Byte) (c : Cpu) :
        (c.rraShift m).1 = (m >>> 1) ||| (if c.flagC then 0x80#8 else 0#8) := by
      rw [Cpu.rraShift, bitByte_shiftLeft_seven]
    exact combinedForms_modify (shift := Cpu.rraShift) (combine := Cpu.addCore) hp hc stored
      (fun m c => by rw [stored]; rfl) templates
  case dcp =>
    exact combinedForms_modify (shift := Cpu.dcpStep) (combine := Cpu.cmpOp) hp hc (fun _ _ => rfl)
      (fun m c => Cpu.compare_eq c.a (m - 1#8) c) templates
  case isc =>
    exact combinedForms_modify (shift := Cpu.iscStep) (combine := Cpu.subCore) hp hc (fun _ _ => rfl)
      (fun _ _ => rfl) templates

/-- Settles O24: SAX is the write class, LAX and LAS the read class, each over the template of its mode. -/
theorem combinedLoadsAndStoresComplete : Obligations.CombinedLoadsAndStoresComplete := by
  intro s b1 w hp hc
  refine ⟨?sax, ?lax, ?las⟩
  case sax =>
    simp only [List.forall_mem_cons]
    exact ⟨storeForm_stores hp hc (fun c => c.a &&& c.x) (addrIndx_reads hp b1),
      storeForm_stores hp hc (fun c => c.a &&& c.x) (addrZp_reads s b1),
      storeForm_stores hp hc (fun c => c.a &&& c.x) (addrAbs_reads s w),
      storeForm_stores hp hc (fun c => c.a &&& c.x) (addrZpy_reads hp b1), List.forall_mem_nil _⟩
  case lax =>
    exact readForms_complete (op := Cpu.laxOp) (fun m c => Cpu.setNZ_eq m { c with a := m, x := m })
      (laxTemplates_frame hp b1 w)
  case las =>
    exact readForms_complete (op := Cpu.lasOp) (fun _ _ => Cpu.setNZ_eq _ _)
      (List.forall_mem_singleton.2 (readAbsy_frame hp w))

/-- Settles O25: each instruction is the read class of its operation over the immediate operand; ARR is its
binary or its decimal operation as D says. -/
theorem immediateCombinationsComplete : Obligations.ImmediateCombinationsComplete := by
  intro s b1 hp
  have template := immTemplate_frame s b1
  have arr : Encodes (.arrImm b1) 0x6B#8 2 false := .of_row rfl rfl rfl
  refine ⟨?anc, ?alr, ?sbx, ?usbc, ?ane, ?lxa, ?arrBinary, ?arrDecimal⟩
  case anc =>
    exact readForms_complete (op := Cpu.ancOp) (fun _ _ => by rw [Cpu.ancOp, Cpu.loadA_eq])
      (List.forall_mem_cons.2 ⟨readImm_frame s b1, template⟩)
  case alr => exact readForms_complete (fun m c => Cpu.alrOp_eq m c) template
  case sbx => exact readForms_complete (fun m c => Cpu.sbxOp_eq m c) template
  case usbc => exact readForms_complete (fun _ _ => rfl) template
  case ane =>
    exact readForms_complete (op := Cpu.aneOp s.config.aneMagic) (fun _ _ => Cpu.loadA_eq _ _) template
  case lxa =>
    exact readForms_complete (op := Cpu.lxaOp s.config.lxaMagic) (fun _ _ => Cpu.setNZ_eq _ _) template
  case arrBinary =>
    intro binary
    exact List.forall_mem_singleton.2
      (ReadForm.completes_of (readImm_frame s b1) rfl arr (Cpu.arrOp_of_binary binary))
  case arrDecimal =>
    intro decimal
    exact List.forall_mem_singleton.2
      (ReadForm.completes_of (readImm_frame s b1) rfl arr (Cpu.arrOp_of_decimal decimal))

/-- Settles O26: each form is a high store; the base of SHA with a pointer is the word it reads there. -/
theorem highStoresComplete : Obligations.HighStoresComplete := by
  refine ⟨?absolute, ?pointer⟩
  case absolute =>
    intro s w hp hc
    simp only [List.forall_mem_cons]
    refine ⟨fun _ _ hv ha => highStore_completes ?sha, fun _ _ hv ha => highStore_completes ?shx,
      fun _ _ hv ha => highStore_completes ?shy, fun _ _ hv ha => highStore_completes ?tas,
      List.forall_mem_nil _⟩
    case sha => exact highStoreAbs_completes hp hc w Cpu.y (fun c => c.a &&& c.x) hv ha
    case shx => exact highStoreAbs_completes hp hc w Cpu.y Cpu.x hv ha
    case shy => exact highStoreAbs_completes hp hc w Cpu.x Cpu.y hv ha
    case tas => exact transferAndStore_completes hp hc w hv ha
  case pointer =>
    intro s b1 hp hc
    obtain ⟨t, ht, lo, hi, d, readLo, readHi, ran⟩ :=
      outcome_of_completes (highStoreInd_completes hp hc b1 fun c => c.a &&& c.x)
    refine ⟨.of_row rfl rfl rfl, lo, hi, d, t, readLo, readHi, ht, fun v a hv ha => ran v a hv ?_⟩
    rwa [State.highStoreAddress, loByte_mkWord]

/-- Settles O27: the NOPs with an operand are the read class of the operation that does nothing, over one of
five templates; the others are the implied class of it. -/
theorem undocumentedNopsComplete : Obligations.UndocumentedNopsComplete := by
  intro s b1 w hp
  refine ⟨?reading, impliedForms_complete hp fun c => c⟩
  case reading =>
    refine readForms_complete (op := noCombine) (fun _ _ => rfl) fun p h =>
      nopTemplates_frame hp b1 w p (List.subset_def.1 ?modes h)
    case modes => simp

/-- Settles O28: each is the implied class, with the assignment that jams the CPU. -/
theorem jamsComplete : Obligations.JamsComplete := fun _ hp =>
  impliedForms_complete hp fun c => { c with jammed := true }

end Sys2Proof.Machine
end

section
/-! The ticks of one chip: a tick is a per-cycle machine run once for each cycle, so ticks compose (R702), and
what a cycle without the grant does to the phase counters of a chip, `n` cycles do `n` times (R710, R712,
R713). -/

namespace Sys2Proof.Machine

/-! ## Ticks -/

/-- Ticking `a` cycles and then `b` from there is ticking `a + b` (R702). -/
theorem tickChip_add (i : Nat) (granted : Bool) (start a b : Nat) :
    tickChip i granted start (a + b)
      = (do tickChip i granted start a; tickChip i granted (start + a) b) := by
  induction a generalizing start with
  | zero => rw [Nat.zero_add]; rfl
  | succ a ih =>
    rw [Nat.add_right_comm, tickChip, tickChip, bind_assoc, ih, Nat.add_assoc, Nat.add_comm 1]

/-- Settles O58: the cycles of the one tick are those of the two. -/
theorem ticksCompose : Obligations.TicksCompose := fun i granted start a b s =>
  congrFun (tickChip_add i granted start a b) s

/-- What one cycle of a chip does to a value that the state stands for, `n` cycles do `n` times. -/
theorem tickChip_iterate {σ : Type} {P : σ → State → Prop} {f : σ → σ} {i : Nat} {granted : Bool}
    (cycle : ∀ x start s, P x s → Completes (chipCycle i granted start) s fun _ t => P (f x) t)
    (n start : Nat) {x : σ} {s : State} (h : P x s) :
    Completes (tickChip i granted start n) s fun _ t => P (f^[n] x) t := by
  induction n generalizing start x s with
  | zero => exact .pure h
  | succ n ih => exact (cycle x start s h).bind fun _ _ after => ih (start + 1) after

/-- A change of the state. -/
theorem Completes.updState {f : State → State} {s : State} {Q : Unit → State → Prop} (h : Q () (f s)) :
    Completes (Machine.updState f) s Q := ⟨(), _, rfl, h⟩

/-- A part that first looks at the state. -/
theorem getState_bind {α : Type} (f : State → M α) (s : State) : (getState >>= f) s = f s s := rfl

/-! ## One chip of the state -/

/-- Chip `i` is configured as `spec`, and what stands there satisfies `P`. -/
def State.ChipIs (s : State) (i : Nat) (spec : ChipSpec) (P : Chip → Prop) : Prop :=
  specOf s.config i = spec ∧ ∃ c, s.chips[i]? = some c ∧ P c

section
variable {s : State} {i : Nat} {spec : ChipSpec} {P Q : Chip → Prop}

/-- A replaced chip is the new one. -/
theorem State.ChipIs.setChip (h : s.ChipIs i spec P) {c : Chip} (hc : Q c) :
    (s.setChip i c).ChipIs i spec Q := by
  obtain ⟨config, _, old, -⟩ := h
  exact ⟨config, c, by rw [State.setChip_chips, List.getElem?_set_self', old]; rfl, hc⟩

/-- A chip that has reacted is the one it became, with the core of its reaction. -/
theorem State.ChipIs.react (h : s.ChipIs i spec P) (base : Nat) {c : Chip} {r : Reaction}
    (hc : Q (chipWithCore r.core c)) : (s.react i base c r).ChipIs i spec Q := by
  obtain ⟨config, _, old, -⟩ := h
  exact ⟨config, _, by rw [State.react_chips, List.getElem?_set_self', old]; rfl, hc⟩

/-! ## The chip-defined part of a cycle -/

/-- A property of a chip that reads neither its core nor, in a video chip, the rendering pipeline: what the
chip-defined part of a cycle may change (R701, R703, R711). -/
structure CoreFree (P : Chip → Prop) : Prop where
  core : ∀ core c, P c → P (chipWithCore core c)
  latch : ∀ i cycle v core, P (.video v core) → P (.video (rasterLatch i cycle v) core)
  render : ∀ v core bytes, P (.video v core) → P (.video { v with render := bytes } core)

theorem CoreFree.chipTick (hP : CoreFree P) {granted : Bool} {peeked : List Byte} {got : Option Byte}
    {c : Chip} (h : P c) : P (Machine.chipTick spec i granted peeked got c).1 := by
  cases c with
  | video v core => exact hP.render v core _ h
  | refTimer _ | io _ _ | disk _ _ | audio _ | other _ => exact h

theorem CoreFree.videoEnter (hP : CoreFree P) (cycle : Nat) (h : s.ChipIs i spec P) :
    (Machine.videoEnter i cycle s).ChipIs i spec P := by
  obtain ⟨-, c, hc, hPc⟩ := id h
  unfold Machine.videoEnter
  split
  · rename_i v core hv
    obtain rfl := Option.some.inj (hc.symm.trans hv)
    exact h.setChip (hP.latch i cycle v core hPc)
  · exact h

theorem CoreFree.chipReact (hP : CoreFree P) (cycle : Nat) (granted : Bool) (peeked : List Byte)
    (got : Option Byte) (h : s.ChipIs i spec P) :
    (Machine.chipReact i cycle granted peeked got s).ChipIs i spec P := by
  obtain ⟨-, c, hc, hPc⟩ := id h
  rw [Machine.chipReact, hc]
  exact h.react cycle (hP.core _ _ (hP.chipTick hPc))

/-- Without the grant the chip-defined part of a cycle completes: it makes no bus access (R733). -/
theorem CoreFree.coreCycle (hP : CoreFree P) (cycle : Nat) (h : s.ChipIs i spec P) :
    Completes (Machine.coreCycle i cycle false) s fun _ t => t.ChipIs i spec P := by
  obtain ⟨-, c, hc, -⟩ := id h
  have run : Machine.coreCycle i cycle false s = .ok ()
      (Machine.chipReact i cycle false ((chipPeeks (specOf s.config i) i false c).map s.peek) none
        (Machine.videoEnter i cycle s)) := by
    rw [Machine.coreCycle, getState_bind, hc]
    rfl
  exact ⟨(), _, run, hP.chipReact cycle false _ none (hP.videoEnter cycle h)⟩

/-- The bit cells of a disk controller react with its core alone (R713). -/
theorem CoreFree.runDiskCells (hP : CoreFree P) (cycle n : Nat) (h : s.ChipIs i spec P) :
    (Machine.runDiskCells i cycle n s).ChipIs i spec P := by
  induction n generalizing s with
  | zero => exact h
  | succ n ih =>
    obtain ⟨-, c, hc, hPc⟩ := id h
    unfold Machine.runDiskCells
    split
    · rename_i r core hr
      obtain rfl := Option.some.inj (hc.symm.trans hr)
      exact ih (h.react cycle (hP.core _ _ hPc))
    · exact h

end

/-! ## The raster -/

/-- A carry is not lost where a sum is taken in two parts, each divided with remainder. -/
theorem div_add_mod_add_div (x k : Nat) {d : Nat} (hd : 0 < d) : x / d + (x % d + k) / d = (x + k) / d := by
  conv_rhs => rw [← Nat.div_add_mod x d, Nat.add_assoc, Nat.mul_add_div hd]

/-- One cycle of a raster in range adds 1 modulo `FRAME_CYCLES`, and the carry to the frames (R710). -/
theorem rasterAdvance_eq {frame : Nat} {v : VideoState} (phase : v.phase < frame)
    (frames : v.frames < 2 ^ 64) : rasterAdvance frame v = { v with
      phase := (v.phase + 1) % frame
      frames := (v.frames + (v.phase + 1) / frame) % 2 ^ 64 } := by
  unfold rasterAdvance
  split
  · next inside => rw [Nat.mod_eq_of_lt inside, Nat.div_eq_of_lt inside,
      Nat.add_zero v.frames, Nat.mod_eq_of_lt frames]
  · next wraps =>
    obtain rfl : v.phase + 1 = frame := by omega
    rw [Nat.mod_self, Nat.div_self (Nat.succ_pos _)]

/-- Over `n` cycles the raster counts them modulo `FRAME_CYCLES`, and its wraps (R710). -/
theorem rasterAdvance_iterate {frame : Nat} {v : VideoState} (phase : v.phase < frame)
    (frames : v.frames < 2 ^ 64) (n : Nat) : (rasterAdvance frame)^[n] v = { v with
      phase := (v.phase + n) % frame
      frames := (v.frames + (v.phase + n) / frame) % 2 ^ 64 } := by
  have pos : 0 < frame := Nat.zero_lt_of_lt phase
  induction n with
  | zero =>
    rw [Nat.add_zero, Nat.mod_eq_of_lt phase, Nat.div_eq_of_lt phase, Nat.add_zero, Nat.mod_eq_of_lt frames]
    rfl
  | succ n ih =>
    rw [Function.iterate_succ_apply', ih, rasterAdvance_eq (Nat.mod_lt _ pos) (Nat.mod_lt _ (by decide))]
    dsimp only
    rw [Nat.mod_add_mod, Nat.mod_add_mod, Nat.add_assoc v.frames, div_add_mod_add_div _ _ pos, Nat.add_assoc]

/-- A video chip whose raster stands where that of `v` does. -/
def RasterAt (v : VideoState) (c : Chip) : Prop :=
  ∃ w core, c = .video w core ∧ w.phase = v.phase ∧ w.frames = v.frames

theorem coreFree_rasterAt (v : VideoState) : CoreFree (RasterAt v) where
  core := by
    rintro core _ ⟨w, _, rfl, raster⟩
    exact ⟨w, core, rfl, raster⟩
  latch := by
    rintro _ _ _ core ⟨_, _, ⟨⟩, raster⟩
    exact ⟨_, core, rfl, raster⟩
  render := by
    rintro _ core _ ⟨_, _, ⟨⟩, raster⟩
    exact ⟨_, core, rfl, raster⟩

/-- The advance of a raster depends on where it stands alone (R710). -/
theorem RasterAt.advance {frame : Nat} {v w : VideoState} (core : ChipCore) (phase : w.phase = v.phase)
    (frames : w.frames = v.frames) :
    RasterAt (rasterAdvance frame v) (.video (rasterAdvance frame w) core) := by
  refine ⟨_, core, rfl, ?_⟩
  unfold rasterAdvance
  rw [phase, frames]
  split <;> exact ⟨rfl, rfl⟩

/-- The raster advances at the end of a cycle (R710). -/
theorem State.ChipIs.videoLeave {s : State} {i : Nat} {spec : ChipSpec} {v : VideoState}
    (h : s.ChipIs i spec (RasterAt v)) :
    (videoLeave i s).ChipIs i spec (RasterAt (rasterAdvance (specFrameCycles spec) v)) := by
  obtain ⟨config, _, hc, w, core, rfl, phase, frames⟩ := id h
  rw [Machine.videoLeave, hc, config]
  exact h.setChip (RasterAt.advance core phase frames)

/-- One cycle of a video chip without the grant advances its raster by one (R710). -/
theorem chipCycle_raster {s : State} {i : Nat} {spec : ChipSpec} {v : VideoState} (cycle : Nat)
    (h : s.ChipIs i spec (RasterAt v)) : Completes (chipCycle i false cycle) s fun _ t =>
      t.ChipIs i spec (RasterAt (rasterAdvance (specFrameCycles spec) v)) := by
  obtain ⟨-, _, hc, w, core, rfl, -⟩ := id h
  have free := coreFree_rasterAt v
  have run : chipCycle i false cycle s = (do
      updState (videoEnter i cycle)
      coreCycle i cycle false
      updState (videoLeave i) : M Unit) s := by
    rw [chipCycle, getState_bind, hc]
  rw [Completes, run]
  exact (Completes.updState (free.videoEnter cycle h)).bind fun _ _ entered =>
    (free.coreCycle cycle entered).bind fun _ _ ticked => .updState ticked.videoLeave

/-- Settles O56: the raster's cycles are counted by division with remainder, and a cycle of the chip is one
of its raster. -/
theorem rasterCountsFrames : Obligations.RasterCountsFrames := by
  refine ⟨fun frame n v phase frames => ?_, ?_⟩
  · rw [rasterAdvance_iterate phase frames]
    exact ⟨rfl, rfl, rfl⟩
  · rintro s i start n frame v core chip rfl phase frames
    obtain ⟨⟨⟩, t, ticked, -, _, after, w, core', rfl, wPhase, wFrames⟩ :=
      tickChip_iterate (P := fun v s => s.ChipIs i _ (RasterAt v)) (fun _ cycle _ => chipCycle_raster cycle)
        n start ⟨rfl, _, chip, v, core, rfl, rfl, rfl⟩
    rw [rasterAdvance_iterate phase frames] at wPhase wFrames
    exact ⟨t, w, core', ticked, after, wPhase, wFrames⟩

/-! ## The bit cells of a disk controller -/

/-- The remainder after `n` cycles (R713). -/
theorem diskRemainder_iterate (num : Nat) {den r : Nat} (hr : r < den) (n : Nat) :
    (diskRemainder num den)^[n] r = (r + n * num) % den := by
  induction n with
  | zero => rw [Nat.zero_mul, Nat.add_zero, Nat.mod_eq_of_lt hr]; rfl
  | succ n ih =>
    rw [Function.iterate_succ_apply', ih, diskRemainder, Nat.mod_add_mod, Nat.add_assoc, ← Nat.succ_mul]

/-- The bit cells of `n` cycles: the remainders carry every fraction on (R713). -/
theorem sum_diskCells (num : Nat) {den r : Nat} (hr : r < den) (n : Nat) :
    ((List.range n).map fun k => diskCells num den ((diskRemainder num den)^[k] r)).sum
      = (r + n * num) / den := by
  induction n with
  | zero => rw [Nat.zero_mul, Nat.add_zero, Nat.div_eq_of_lt hr]; rfl
  | succ n ih =>
    rw [List.range_succ, List.map_append, List.sum_append, ih, List.map_singleton, List.sum_singleton,
      diskRemainder_iterate num hr, diskCells, div_add_mod_add_div _ _ (Nat.zero_lt_of_lt hr), Nat.add_assoc,
      ← Nat.succ_mul]

/-- A disk controller with this remainder. -/
def DiskAt (r : Nat) (c : Chip) : Prop := ∃ core, c = .disk r core

theorem coreFree_diskAt (r : Nat) : CoreFree (DiskAt r) where
  core := by
    rintro core _ ⟨_, rfl⟩
    exact ⟨core, rfl⟩
  latch := nofun
  render := nofun

/-- The bit cells of one cycle leave the remainder of its division (R713). -/
theorem State.ChipIs.diskCycle {s : State} {i r : Nat} {spec : ChipSpec} (cycle : Nat)
    (h : s.ChipIs i spec (DiskAt r)) : (diskCycle i cycle s).ChipIs i spec
      (DiskAt (diskRemainder (specBitcell spec).1 (specBitcell spec).2 r)) := by
  obtain ⟨config, _, hc, core, rfl⟩ := id h
  rw [Machine.diskCycle, hc, config]
  exact (coreFree_diskAt _).runDiskCells cycle _ (h.setChip ⟨core, rfl⟩)

/-- One cycle of a disk controller without the grant (R713). -/
theorem chipCycle_disk {s : State} {i r : Nat} {spec : ChipSpec} (cycle : Nat)
    (h : s.ChipIs i spec (DiskAt r)) : Completes (chipCycle i false cycle) s fun _ t =>
      t.ChipIs i spec (DiskAt (diskRemainder (specBitcell spec).1 (specBitcell spec).2 r)) := by
  obtain ⟨-, _, hc, core, rfl⟩ := id h
  have run : chipCycle i false cycle s = (do
      updState (diskCycle i cycle)
      coreCycle i cycle false : M Unit) s := by
    rw [chipCycle, getState_bind, hc]
  rw [Completes, run]
  exact (Completes.updState (h.diskCycle cycle)).bind fun _ _ processed =>
    (coreFree_diskAt _).coreCycle cycle processed

/-! ## The down-counters of an I/O chip -/

/-- An I/O chip with these down-counters. -/
def TimersAt (timers : List DownCounter) (c : Chip) : Prop := ∃ core, c = .io timers core

theorem coreFree_timersAt (timers : List DownCounter) : CoreFree (TimersAt timers) where
  core := by
    rintro core _ ⟨_, rfl⟩
    exact ⟨core, rfl⟩
  latch := nofun
  render := nofun

/-- The down-counters of an I/O chip after a cycle, and whether one of each line expired in it (R712). -/
structure TimersCycle where
  timers : List DownCounter
  irq : Bool
  nmi : Bool

/-- One more cycle of the down-counters (R712). -/
def TimersCycle.next (i : Nat) (x : TimersCycle) : TimersCycle where
  timers := x.timers.map (downCounterCycle i)
  irq := countersExpire i false x.timers
  nmi := countersExpire i true x.timers

theorem TimersCycle.next_iterate_timers (i n : Nat) (x : TimersCycle) :
    ((TimersCycle.next i)^[n] x).timers = (List.map (downCounterCycle i))^[n] x.timers := by
  induction n generalizing x with
  | zero => rfl
  | succ n ih => exact ih (x.next i)

/-- An I/O chip with these down-counters that asserts the lines of those expired. -/
def AssertsExpired (x : TimersCycle) (c : Chip) : Prop :=
  ∃ core, c = .io x.timers core ∧ (x.irq = true → core.irq = true) ∧ (x.nmi = true → core.nmi = true)

/-- The lines of expired down-counters are asserted besides those the chip asserts already (R712). -/
theorem assertsExpired_assertLines (x : TimersCycle) (core : ChipCore) :
    AssertsExpired x (.io x.timers (assertLines x.irq x.nmi core)) := by
  refine ⟨_, rfl, fun irq => ?_, fun nmi => ?_⟩
  · rw [assertLines, irq, Bool.or_true]
  · rw [assertLines, nmi, Bool.or_true]

/-- One cycle of an I/O chip without the grant: the down-counters count, and the lines of those that expire
are asserted at its end, whatever the chip-defined part does (R712). -/
theorem chipCycle_io {s : State} {i : Nat} {spec : ChipSpec} {x : TimersCycle} (cycle : Nat)
    (h : s.ChipIs i spec (AssertsExpired x)) : Completes (chipCycle i false cycle) s fun _ t =>
      t.ChipIs i spec (AssertsExpired (x.next i)) := by
  obtain ⟨-, _, hc, core, rfl, -⟩ := id h
  have run : chipCycle i false cycle s = (do
      updState (timersCount i)
      coreCycle i cycle false
      updState (timersAssert i (x.next i).irq (x.next i).nmi) : M Unit) s := by
    rw [chipCycle, getState_bind, hc]
    rfl
  have counted : (timersCount i s).ChipIs i spec (TimersAt (x.next i).timers) := by
    rw [timersCount, hc]
    exact h.setChip ⟨core, rfl⟩
  rw [Completes, run]
  refine (Completes.updState counted).bind fun _ _ entered =>
    ((coreFree_timersAt _).coreCycle cycle entered).bind fun _ t ticked => .updState ?asserted
  obtain ⟨-, _, tc, core', rfl⟩ := id ticked
  rw [timersAssert, tc]
  exact ticked.setChip (assertsExpired_assertLines _ core')

/-- Settles O57: the cells are counted by division with remainder, and a cycle of the chip is one of its bit
cells or of its down-counters. -/
theorem bitCellsLoseNoFraction : Obligations.BitCellsLoseNoFraction := by
  refine ⟨fun num den n r hr => ⟨diskRemainder_iterate num hr n, sum_diskCells num hr n⟩, ?disk, ?io⟩
  case disk =>
    intro s i start n r core chip hr
    obtain ⟨⟨⟩, t, ticked, -, _, after, core', rfl⟩ :=
      tickChip_iterate (P := fun r s => s.ChipIs i _ (DiskAt r)) (fun _ cycle _ => chipCycle_disk cycle)
        n start ⟨rfl, _, chip, core, rfl⟩
    rw [diskRemainder_iterate _ hr] at after
    exact ⟨t, core', ticked, after⟩
  case io =>
    intro s i start n timers core chip
    obtain ⟨⟨⟩, t, ticked, -, _, after, core', rfl, irq, nmi⟩ :=
      tickChip_iterate (P := fun x s => s.ChipIs i _ (AssertsExpired x)) (fun _ cycle _ => chipCycle_io cycle)
        n start (x := ⟨timers, false, false⟩) ⟨rfl, _, chip, core, rfl, nofun, nofun⟩
    rw [TimersCycle.next_iterate_timers] at after
    refine ⟨t, core', ticked, after, ?_, ?_⟩
    · rintro rfl
      exact irq
    · rintro rfl
      exact nmi

end Sys2Proof.Machine
end

section
/-! The scheduler around the ticks: the stall arbiter and a stall round (R732, R733), a reset the host
requests (R753, R960), the host calls (R752), and the resolution of the lines (R740). -/

namespace Sys2Proof.Machine

/-! ## The stall arbiter -/

/-- The request taken is the first that has begun, and the others keep their order (R732). -/
theorem takeActive_eq_some {now : Nat} {st : Stall} : ∀ {live others : List Stall},
    takeActive now live = some (st, others) → ∃ front back, live = front ++ st :: back
      ∧ others = front ++ back ∧ st.fromCycle ≤ now ∧ ∀ x ∈ front, now < x.fromCycle
  | [], _, h => nomatch h
  | a :: live, _, h => by
    rw [takeActive] at h
    split at h
    · next begun =>
      obtain ⟨rfl, rfl⟩ := Prod.mk.inj (Option.some.inj h)
      exact ⟨[], live, rfl, rfl, begun, nofun⟩
    · next future =>
      split at h
      · next t rest taken =>
        obtain ⟨rfl, rfl⟩ := Prod.mk.inj (Option.some.inj h)
        obtain ⟨front, back, rfl, rfl, begun, before⟩ := takeActive_eq_some taken
        exact ⟨a :: front, back, rfl, rfl, begun, List.forall_mem_cons.2 ⟨Nat.not_le.1 future, before⟩⟩
      · nomatch h

/-- Where no request is taken, none has begun (R732). -/
theorem takeActive_eq_none {now : Nat} : ∀ {live : List Stall}, takeActive now live = none →
    ∀ x ∈ live, now < x.fromCycle
  | [], _ => nofun
  | a :: live, h => by
    rw [takeActive] at h
    split at h
    · nomatch h
    · next future =>
      split at h
      · nomatch h
      · next untaken => exact List.forall_mem_cons.2 ⟨Nat.not_le.1 future, takeActive_eq_none untaken⟩

/-- Settles O50: the requests kept are those whose window ends after now, and the arbiter takes the first of
them that has begun. -/
theorem takeStallTakesFirstActive : Obligations.TakeStallTakesFirstActive := by
  rintro now stalls live hlive
  have kept : stalls.filter (fun st => !st.elapsed now) = live := by
    rw [hlive]
    exact List.filter_congr fun st _ => by rw [Stall.elapsed, ← decide_not, decide_eq_decide, Nat.not_le]
  rw [takeStall, kept]
  cases taken : takeActive now live with
  | none => exact ⟨nofun, fun _ => ⟨rfl, takeActive_eq_none taken⟩⟩
  | some p =>
    refine ⟨?_, nofun⟩
    rintro _ ⟨⟩
    obtain ⟨front, back, split, others, begun, before⟩ := takeActive_eq_some taken
    have mem : p.1 ∈ stalls.filter (fun st => decide (now < st.fromCycle + st.duration)) := by
      rw [← hlive, split]
      exact List.mem_append_right _ (List.mem_cons_self ..)
    exact ⟨front, back, split, others, begun, of_decide_eq_true (List.mem_filter.1 mem).2, before⟩

/-! ## A stall round -/

/-- A step whose boundary leaves the loop running with an active stall is a stall round (R720). -/
theorem step_eq_stallRound {s : State} {st : Stall} (noFault : s.sched.fault = none)
    (before : s.sched.run = .running) (running : (boundary s).sched.run = .running)
    (taken : (takeStall s.clock (boundary s).sched.stalls).1 = some st) :
    step s = .next (stallRound st (startRound (boundary s))) := by
  rw [← boundary_clock s] at taken
  simp only [step, iterate, noFault, before, running, taken]

/-- In a production machine a stall round moves the clock to the end of the window of the stall, ticks the
chips over the rest of it, with the grant to the requester, and resolves the lines (R720, R733). -/
theorem stallRound_ticks {s : State} {st : Stall} (hp : s.production)
    (active : s.clock < st.fromCycle + st.duration) (room : st.fromCycle + st.duration < 2 ^ 64) :
    ∃ v, stallRound st s = resolveLines v ∧ Aside { s with clock := st.fromCycle + st.duration } v
      ∧ (s.config.chipOrder = List.range s.config.chips.length →
        TicksOnce (some st.chip) s.clock (st.fromCycle + st.duration - s.clock)
          { s with clock := st.fromCycle + st.duration } v) := by
  have window : s.clock + (st.fromCycle + st.duration - s.clock) = st.fromCycle + st.duration := by omega
  obtain ⟨v, passed, aside, -, once⟩ := passCycles_ticks hp (some st.chip) (window.trans_lt room)
  rw [window] at aside once
  exact ⟨v, by rw [stallRound, settle, passed], aside, once⟩

/-- Settles O51: the step is a stall round from the state its boundary leaves. -/
theorem stallRoundSparesCpu : Obligations.StallRoundSparesCpu := by
  rintro s st _ hp - noFault before running taken rfl room
  have clock : (startRound (boundary s)).clock = s.clock := boundary_clock s
  have config : (startRound (boundary s)).config = s.config := boundary_config s
  obtain ⟨-, active⟩ := takeStall_active taken
  obtain ⟨v, round, ⟨-, vCpu, vClock, vFault⟩, once⟩ :=
    stallRound_ticks (s := startRound (boundary s)) (st := st) ((congrArg _ config).trans hp)
      (by rwa [clock]) room
  refine ⟨resolveLines v, ?_, vFault.trans ((boundary_fault s).trans noFault), vClock, ?_, ?_⟩
  · rw [step_eq_stallRound noFault before running taken, round]
  · have vCpu : v.cpu = (boundary s).cpu := vCpu
    simp only [resolveLines, vCpu]
  · rw [← clock, ← config]
    exact fun order => ⟨v, once order, rfl⟩

/-! ## A reset the host requests -/

/-- A boundary with a reset request alone honours it and clears the request: no queue is left that could change
the table again (R750, R753). -/
theorem boundary_of_reset {s : State}
    (h : s.sched.hostReq = { pause := false, reset := true, powerOff := false }) :
    boundary s = { honourReset s with
      sched := { (honourReset s).sched with hostReq := HostReq.clear } } := by
  rw [boundary, honourRequests, h]
  rfl

/-- Without reset-time images a reset keeps every byte of every store (R753). -/
theorem honourReset_stores {s : State} (h : s.config.imagesReset = []) :
    (honourReset s).bus.stores = s.bus.stores := by
  rw [honourReset, h]
  rfl

/-- Where the reset vector lies in stores, the reset sequence makes seven accesses, stores nothing and loads
PC with the word there (R304). -/
theorem resetSequence_plain {s : State} (hp : s.production) (hc : s.canonical)
    (lowPlain : s.plain 0xFFFC#16) (highPlain : s.plain 0xFFFD#16) :
    ∃ u, resetSequence s = .ok () u ∧ WriteFrame s [] u ∧ u.cycle = s.cycle + 7 ∧ u.cpu = { s.cpu with
      s := s.cpu.s - 3#8
      flagI := true
      pc := mkWord (s.peek 0xFFFD#16) (s.peek 0xFFFC#16)
      resetPending := false
      jammed := false
      nmiPending := false } := by
  obtain ⟨⟨⟩, u, run, d, e, f, g, h, lo, hi, readLo, readHi, ran⟩ := resetSequence_completes hp hc
  rw [readLo.peek lowPlain, readHi.peek highPlain] at ran
  exact ⟨u, run, ran.frame, ran.cycle, ran.cpu⟩

/-- A step whose boundary leaves a reset pending and no stall runs the reset sequence and ends the round
(R302, R720). -/
theorem step_of_resetPending {s u : State} (noFault : s.sched.fault = none)
    (before : s.sched.run = .running) (running : (boundary s).sched.run = .running)
    (noStall : (takeStall s.clock (boundary s).sched.stalls).1 = none)
    (pending : (boundary s).cpu.resetPending = true)
    (run : resetSequence (startRound (boundary s)) = .ok () u) : step s = .next (finishRound u) := by
  have kind : stepKind (startRound (boundary s)).cpu = .resetSequence := stepKind_reset pending
  rw [step_eq_cpuRound noFault before running noStall, cpuRound_reset kind, settle, run]

/-- The end of a CPU round, when the step met no fault: the clock has moved by its cycles, the CPU changes in
its interrupt inputs alone, and the table and the bytes of the stores stay (R720, R733, R740). -/
theorem finishRound_frame {u : State} (hp : u.production) (noFault : u.sched.fault = none)
    (room : u.clock + u.cycle < 2 ^ 64) :
    (finishRound u).sched.fault = none ∧ (finishRound u).clock = u.clock + u.cycle
      ∧ (finishRound u).bus.maps = u.bus.maps ∧ (finishRound u).bus.stores = u.bus.stores
      ∧ (finishRound u).cpu = { u.cpu with
        irqIn := (finishRound u).sched.irqRes
        nmiIn := (finishRound u).sched.nmiRes
        nmiPrev := (finishRound u).sched.nmiRes
        nmiPending := u.cpu.nmiPending || ((finishRound u).sched.nmiRes && !u.cpu.nmiPrev) } := by
  obtain ⟨v, finished, ⟨-, cpu, clock, fault⟩, ticked, -⟩ := finishRound_ticks hp noFault room
  have ⟨_, maps, stores⟩ : SameMemory u v :=
    ((sameMemory_chipClosed u).tickAll _ _ _).of_ok ticked ⟨rfl, rfl, rfl⟩
  rw [finished]
  refine ⟨fault.trans noFault, clock, maps, stores, ?_⟩
  simp only [resolveLines, State.setCycle, cpu]

/-- Settles O38: the boundary honours the reset, so the step is the reset sequence over the power-on table, and
the round's end resolves the lines against an NMI level of 0. -/
theorem hostResetRestartsCpu : Obligations.HostResetRestartsCpu := by
  intro s hp hc noFault running request noImages room lowPlain highPlain
  have bound := boundary_of_reset request
  have noStalls : (boundary s).sched.stalls = [] := by rw [bound]; rfl
  have stores : (startRound (boundary s)).bus.stores = s.bus.stores := by
    rw [bound]; exact honourReset_stores noImages
  have peek (a : Word) : (startRound (boundary s)).peek a = (honourReset s).peek a := by rw [bound]; rfl
  obtain ⟨u, run, frame, cycle, cpu⟩ := resetSequence_plain (s := startRound (boundary s))
    ((congrArg _ (boundary_config s)).trans hp) (fun st h => hc st (stores ▸ h))
    (by rw [bound]; exact lowPlain) (by rw [bound]; exact highPlain)
  have clock : u.clock = s.clock := frame.others.clock.trans (boundary_clock s)
  have fault : u.sched.fault = none := frame.others.fault.trans ((boundary_fault s).trans noFault)
  have cycles : u.cycle = 7 := cycle
  obtain ⟨tFault, tClock, tMaps, tStores, tCpu⟩ := finishRound_frame (u := u)
    (frame.others.production ((congrArg _ (boundary_config s)).trans hp)) fault (by rwa [clock, cycles])
  refine ⟨finishRound u, step_of_resetPending noFault running (by rw [bound]; exact running)
    (by rw [noStalls]; rfl) (by rw [bound]; rfl) run, tFault, by rw [tClock, clock, cycles], ?maps, ?bytes, ?cpu⟩
  case maps => rw [tMaps, frame.others.maps, bound]; rfl
  case bytes =>
    intro id off
    calc (finishRound u).storeByte id off
        = u.storeByte id off := congrArg (storesRead · id off) tStores
      _ = (startRound (boundary s)).storeByte id off := frame.bytes id off
      _ = s.storeByte id off := congrArg (storesRead · id off) stores
  case cpu =>
    rw [tCpu, cpu, peek, peek, bound]
    simp [honourReset]

/-! ## Host calls -/

/-- Settles O49: each call is a case distinction over the fault and the run state. -/
theorem hostCallsByState : Obligations.HostCallsByState := by
  rintro s r q rfl rfl
  refine ⟨fun ok => ⟨fun running => ?running, fun other => ?other, fun idle => ?idle, fun paused => ?paused,
    fun waiting => ?waiting, fun stopped => ?stopped⟩, fun faulted => ?faulted⟩
  case running => simp only [hostPause, hostResume, hostReset, hostPowerOff, ok, running, and_self]
  case other =>
    cases run : s.sched.run with
    | running => exact absurd run other
    | idle | paused | stopped => simp only [hostPause, ok, run]
  case idle =>
    refine ⟨fun e invalid => ?_, fun valid => ?_⟩
    · simp only [hostResume, ok, idle, invalid]
    · simp only [hostResume, ok, idle, valid]
  case paused => simp only [hostResume, ok, paused]
  case waiting => rcases waiting with run | run <;> simp only [hostReset, hostPowerOff, ok, run, and_self]
  case stopped => simp only [hostResume, hostReset, hostPowerOff, ok, stopped, and_self]
  case faulted =>
    obtain ⟨f, fault⟩ := Option.ne_none_iff_exists'.1 faulted
    refine ⟨?_, ?_, ?_, fun live => ?_, fun stopped => ?_⟩
    · rw [hostPause, fault]
    · rw [hostResume, fault]
    · rw [hostReset, fault]
    · cases run : s.sched.run with
      | stopped => exact absurd run live
      | idle | running | paused => simp only [hostPowerOff, fault, run]
    · simp only [hostPowerOff, stopped]

/-! ## The resolution of the lines -/

/-- Settles O40: this is what the resolution is defined to do. -/
theorem linesResolve : Obligations.LinesResolve := fun _ => rfl

end Sys2Proof.Machine
end

section
/-! Snapshots (48_snapshot.md): what a snapshot weighs (R851), and that a load puts back what was saved (R850).
Both go record by record; the parsers' answers to what was saved are those of Laws/Snapshot. -/

namespace Sys2Proof.Machine

/-! ## Lengths -/

/-- A record is its payload and 6 bytes (R807). -/
@[simp] theorem length_saveRecord (id : Nat) (payload : List Byte) :
    (saveRecord id payload).length = 6 + payload.length := by
  simp [saveRecord, ← Nat.add_assoc]

@[simp] theorem length_boolByte (b : Bool) : (boolByte b).length = 1 := rfl

/-- An entry of the mapping table is 9 bytes (R811). -/
@[simp] theorem length_saveMapping (m : Mapping) : (saveMapping m).length = 9 := by
  simp [saveMapping]

/-- A store is its bytes and 7 more (R812). -/
@[simp] theorem length_saveStore (st : Store) : (saveStore st).length = 7 + st.size := by
  simp [saveStore, ← Nat.add_assoc]

/-- A pending bank switch is 10 bytes (R813). -/
@[simp] theorem length_saveSwitch (b : BankSwitch) : (saveSwitch b).length = 10 := by
  simp [saveSwitch]

/-- A pending mapping event is 10 bytes, whichever it is (R814). -/
@[simp] theorem length_saveEvent (e : MapEvent) : (saveEvent e).length = 10 := by
  cases e <;> simp [saveEvent]

/-- A pending stall is 14 bytes (R824). -/
@[simp] theorem length_saveStall (st : Stall) : (saveStall st).length = 14 := by
  simp [saveStall]

@[simp] theorem length_saveCpu (c : Cpu) : (saveCpu c).length = 8 := rfl

/-- A counted list is its items and the 2 bytes of the count. -/
@[simp] theorem length_saveList {α : Type} (item : α → List Byte) (xs : List α) :
    (saveList item xs).length = 2 + (xs.map fun x => (item x).length).sum := by
  simp [saveList, List.length_flatten, Function.comp_def]

/-- The Bus payload is four counted lists (R815). -/
@[simp] theorem length_saveBus (b : Bus) :
    (saveBus b).length = 2 + 9 * b.maps.length + 2 + (b.stores.map fun st => 7 + st.size).sum
      + 2 + 10 * b.pendingSwitches.length + 2 + 10 * b.pendingExternal.length := by
  simp [saveBus]; omega

/-- The Scheduler payload is two levels and a counted list (R824). -/
@[simp] theorem length_saveSched (sc : Sched) : (saveSched sc).length = 4 + 14 * sc.stalls.length := by
  simp [saveSched]; omega

/-! ## The chips' records -/

/-- The record of a chip that is there (R808). -/
theorem saveChipRecord_of_getElem? {chips : List Chip} {i : Nat} {c : Chip} (h : chips[i]? = some c) :
    saveChipRecord chips i = saveRecord (chipId i) (saveChip i c) := by
  rw [saveChipRecord, h]

/-- In index order the records are those of the chips one after the other. -/
theorem saveChipRecord_range (chips : List Chip) :
    (List.range chips.length).map (saveChipRecord chips)
      = chips.mapIdx fun i c => saveRecord (chipId i) (saveChip i c) := by
  refine List.ext_getElem (by simp) fun i _ hi => ?_
  rw [List.length_mapIdx] at hi
  rw [List.getElem_map, List.getElem_range, List.getElem_mapIdx,
    saveChipRecord_of_getElem? (List.getElem?_eq_getElem hi)]

/-- The chips' records in index order are the payloads and 6 bytes for each (R807, R851). -/
theorem length_chipRecords (chips : List Chip) :
    ((List.range chips.length).map (saveChipRecord chips)).flatten.length
      = 6 * chips.length + (chips.mapIdx fun i c => (saveChip i c).length).sum := by
  rw [saveChipRecord_range, List.length_flatten, List.mapIdx_eq_zipIdx_map, List.mapIdx_eq_zipIdx_map,
    List.map_map]
  simp [Function.comp_def, List.sum_map_add, Nat.mul_comm]

/-- Settles O60: each part of the snapshot has a length of its own. -/
theorem snapshotSize : Obligations.SnapshotSize := by
  intro s order
  simp only [snapshotBytes, order, List.length_append, length_leBytes, length_saveRecord, length_chipRecords,
    length_saveBus, length_saveCpu, length_saveSched]
  omega

/-! ## What a checked configuration fixes -/

/-- The stores a configuration builds are the configured ones, in another order (R812, R950). -/
theorem initialStores_perm : ∀ sps : List StoreSpec,
    (initialStores sps).Perm (sps.map fun sp => { id := sp.id, kind := sp.kind, size := sp.size, bytes := [] })
  | [] => .refl _
  | sp :: rest => by
    have inserted : ∀ (st : Store) (l : List Store), (insertStore st l).Perm (st :: l) := by
      intro st l
      induction l with
      | nil => exact .refl _
      | cons u l ih =>
        rw [insertStore]
        split
        · exact .refl _
        · exact (ih.cons u).trans (.swap st u l)
    exact (inserted _ _).trans ((initialStores_perm rest).cons _)

/-- Stores that are the configured ones have their ids, kinds and sizes. -/
theorem storesMatch_perm {c : MachineConfig} {stores : List Store} (h : storesMatch c stores = true) :
    (stores.map fun st => (st.id, st.kind, st.size)).Perm
      (c.stores.map fun sp => (sp.id, sp.kind, sp.size)) := by
  rw [of_decide_eq_true h]
  simpa [Function.comp_def] using (initialStores_perm c.stores).map fun st => (st.id, st.kind, st.size)

namespace ConfigOk

variable {c : MachineConfig}

/-- The numbers of a checked configuration fit their fields (log entry 14). -/
theorem widths (h : ConfigOk c) : widthsOk c = true := by
  have parameters := h.parameters
  rw [parametersOk, Bool.and_eq_true] at parameters
  exact parameters.2

/-- `CHIP_ORDER` is the chip index order (R16, R724). -/
theorem chipOrder_eq (h : ConfigOk c) : c.chipOrder = List.range c.chips.length := by
  have parameters := h.parameters
  simp only [parametersOk, Bool.and_eq_true, beq_iff_eq] at parameters
  exact parameters.1.1.2

/-- The header has 4 or 8 bytes (R16). -/
theorem headerBytes_eq (h : ConfigOk c) : c.snapHeaderBytes = 4 ∨ c.snapHeaderBytes = 8 := by
  have parameters := h.parameters
  simp only [parametersOk, Bool.and_eq_true, Bool.or_eq_true, beq_iff_eq] at parameters
  exact parameters.1.1.1.2

/-- A version of 32 bits fits either header (R806). -/
theorem version_fits (h : ConfigOk c) : c.snapVersion.toNat < 2 ^ (8 * c.snapHeaderBytes) := by
  have := c.snapVersion.isLt
  rcases h.headerBytes_eq with e | e <;> rw [e] <;> omega

/-- Every chip index has a component id (R808). -/
theorem chips_length_le (h : ConfigOk c) : c.chips.length ≤ 0xFF00 := by
  have widths := h.widths
  simp only [widthsOk, Bool.and_eq_true, decide_eq_true_eq] at widths
  exact widths.1.2

/-- Every index of a bank table fits its field (R813). -/
theorem bankTables_length_le (h : ConfigOk c) : c.bankTables.length ≤ 2 ^ 16 := by
  have widths := h.widths
  simp only [widthsOk, Bool.and_eq_true, decide_eq_true_eq] at widths
  exact widths.2

/-- The configured stores fit the count and the fields of R812. -/
theorem stores_fit (h : ConfigOk c) {stores : List Store} (hs : storesMatch c stores = true) :
    stores.length < 2 ^ 16 ∧ ∀ st ∈ stores, st.id < 2 ^ 16 ∧ st.size < 2 ^ 32 := by
  have same := storesMatch_perm hs
  have widths := h.widths
  simp only [widthsOk, Bool.and_eq_true, List.all_eq_true, decide_eq_true_eq] at widths
  obtain ⟨⟨⟨fields, count⟩, -⟩, -⟩ := widths
  refine ⟨by simpa using same.length_eq.trans_lt (by simpa using count), fun st hst => ?_⟩
  obtain ⟨sp, hsp, e⟩ := List.mem_map.1 (same.mem_iff.1 (List.mem_map_of_mem hst))
  simp only [Prod.mk.injEq] at e
  obtain ⟨id, -, size⟩ := e
  exact id ▸ size ▸ fields sp hsp

end ConfigOk

/-! ## The payloads read back -/

/-- The Clock payload reads back (R810). -/
theorem readClock_leBytes {n : Nat} (h : n < 2 ^ 64) : readClock (leBytes 8 n) = some n := by
  have read := readUint_leBytes (n := 8) h []
  rw [List.append_nil] at read
  rw [readClock, read]; rfl

/-- The Bus payload reads back (R815). -/
theorem readBus_saveBus {s : State} (h : s.Inv) (hf : s.FitsSnapshot) :
    readBus (saveBus s.bus) = some s.bus := by
  have widths := h.config.widths
  obtain ⟨storesCount, storesFit⟩ := h.config.stores_fit h.stores
  have maps := readList_saveList hf.maps fun m hm rest =>
    have fits := mappingOk_fits widths (h.sound m hm)
    readMapping_saveMapping fits.1 fits.2 rest
  have stores := readList_saveList storesCount fun st hst rest =>
    readStore_saveStore (storesFit st hst).1 (storesFit st hst).2 (h.canonical st hst) (h.sized st hst) rest
  have switches := readList_saveList hf.switches fun b hb rest =>
    readSwitch_saveSwitch (h.switches b hb).1 ((h.switches b hb).2.trans_le h.config.bankTables_length_le) rest
  have events := readList_saveList hf.events (fun e he => readEvent_saveEvent widths (h.events e he)) []
  rw [List.append_nil] at events
  simp only [readBus, saveBus, List.append_assoc, maps, stores, switches, events, Option.bind_eq_bind,
    Option.bind_some, exactly]

/-- The Scheduler payload reads back (R824). -/
theorem readSched_saveSched {s : State} (h : s.Inv) (hf : s.FitsSnapshot) :
    readSched (saveSched s.sched) = some ((s.sched.irqRes, s.sched.nmiRes), s.sched.stalls) := by
  have chips : s.chips.length < 2 ^ 16 := by have := h.config.chips_length_le; rw [h.count]; omega
  have stalls := readList_saveList hf.stalls (fun st hst =>
    have ⟨start, _, duration, chip⟩ := h.stalls st hst
    readStall_saveStall start duration (chip.trans chips)) []
  rw [List.append_nil] at stalls
  simp only [readSched, saveSched, List.append_assoc, readBool_boolByte, stalls, Option.bind_eq_bind,
    Option.bind_some, exactly]

/-- The chips' records read back over any chips that agree with the saved ones at every index the order
leaves out (R808, R830). -/
theorem readChips_saveChipRecord {c : MachineConfig} {saved : List Chip} (few : saved.length ≤ 0xFF00)
    (range : ∀ (i : Nat) x, saved[i]? = some x → chipInRange (specOf c i) x = true)
    (fits : ∀ (i : Nat) x, saved[i]? = some x → (saveChip i x).length < 2 ^ 32) (rest : List Byte) :
    ∀ (order : List Nat) {chips : List Chip}, (∀ i ∈ order, i < saved.length) →
      chips.length = saved.length → (∀ i, i ∉ order → chips[i]? = saved[i]?) →
      readChips c order chips ((order.map (saveChipRecord saved)).flatten ++ rest) = .ok (saved, rest)
  | [], chips, _, _, agree => by
    rw [List.ext_getElem? fun i => agree i List.not_mem_nil]; rfl
  | i :: order, chips, bound, count, agree => by
    have hi : i < saved.length := bound i List.mem_cons_self
    have here : saved[i]? = some saved[i] := List.getElem?_eq_getElem hi
    have taken := takeRecord_saveRecord (id := chipId i) (by unfold chipId; omega) (fits i _ here)
      ((order.map (saveChipRecord saved)).flatten ++ rest)
    have others := readChips_saveChipRecord few range fits rest order (chips := chips.set i saved[i])
      (fun j hj => bound j (List.mem_cons_of_mem _ hj)) (by rw [List.length_set, count]) fun j hj => by
        by_cases same : i = j
        · subst same; rw [List.getElem?_set_self (by omega), here]
        · rw [List.getElem?_set_ne same]
          exact agree j fun mem => (List.mem_cons.1 mem).elim (fun e => same e.symm) hj
    rw [List.map_cons, List.flatten_cons, saveChipRecord_of_getElem? here, List.append_assoc, readChips, taken]
    show (orMalformed (readChip (specOf c i) i (saveChip i saved[i])) >>= _) = _
    rw [readChip_saveChip i (range i _ here)]
    exact others

/-- What a machine with the invariant saves passes the checks of a load (R833). -/
theorem State.Inv.candidateOk {s : State} (h : s.Inv) :
    candidateOk s.config s.bus s.sched.stalls = true := by
  simp only [Machine.candidateOk, Bool.and_eq_true, List.all_eq_true, decide_eq_true_eq]
  exact ⟨⟨⟨⟨⟨h.sound, h.disjoint⟩, h.stores⟩, fun b hb => (h.switches b hb).2⟩, h.events⟩, fun st hst =>
    have ⟨_, duration, _, chip⟩ := h.stalls st hst
    ⟨chip.trans_eq h.count, duration⟩⟩

/-! ## Saving and loading -/

/-- A machine that saves has no fault and is in Idle or Paused (R801, R840). -/
theorem save_eq_ok_iff {s : State} {bytes : List Byte} : save s = .ok bytes ↔
    s.sched.fault = none ∧ (s.sched.run = .idle ∨ s.sched.run = .paused) ∧ snapshotBytes s = bytes := by
  unfold save
  split <;> simp_all

/-- A machine that may load parses the bytes (R830, R840). -/
theorem load_eq_parseSnapshot {t : State} (live : t.sched.run ≠ .stopped)
    (held : t.sched.run = .running → t.sched.fault ≠ none) (bytes : List Byte) :
    load t bytes = parseSnapshot t bytes := by
  unfold load
  split
  · exact absurd ‹_› live
  · exact absurd ‹_› (held ‹_›)
  · rfl

/-- A snapshot parses, in any machine of its configuration, to the state it was saved from (R830, R850). -/
theorem parseSnapshot_snapshotBytes {s t : State} (h : s.Inv) (hf : s.FitsSnapshot)
    (config : t.config = s.config) (count : t.chips.length = s.chips.length) :
    parseSnapshot t (snapshotBytes s) = .ok (t.restored s) := by
  have header := length_leBytes s.config.snapHeaderBytes s.config.snapVersion.toNat
  have clock := takeRecord_saveRecord (id := clockId) (payload := leBytes 8 s.clock) (by decide) (by simp)
  have bus := takeRecord_saveRecord (id := busId) (by decide) hf.bus
  have cpu := takeRecord_saveRecord (id := cpuId) (payload := saveCpu s.cpu) (by decide) (by simp)
  have sched := takeRecord_saveRecord (id := schedId) (payload := saveSched s.sched) (by decide)
    (by have := hf.stalls; rw [length_saveSched]; omega) []
  have order : s.config.chipOrder = List.range s.chips.length := by rw [h.count, h.config.chipOrder_eq]
  have chips := fun rest => readChips_saveChipRecord (h.count ▸ h.config.chips_length_le) h.chips hf.chips rest
    s.config.chipOrder (chips := t.chips) (by simp [order]) count fun i hi => by
      have out : s.chips.length ≤ i := by simpa [order] using hi
      rw [List.getElem?_eq_none out, List.getElem?_eq_none (count.trans_le out)]
  rw [List.append_nil] at sched
  simp only [parseSnapshot, snapshotBytes, config, List.append_assoc]
  rw [if_neg (by rw [List.length_append, header]; omega), List.take_left' header,
    leValue_leBytes h.config.version_fits, if_neg (fun ne => ne rfl), List.drop_left' header]
  simp only [clock, bus, cpu, chips, sched, readClock_leBytes h.clock, readBus_saveBus h hf, readCpu_saveCpu,
    readSched_saveSched h hf, orMalformed, bind, Except.bind, List.isEmpty_nil, h.candidateOk, Bool.and_self,
    if_true, State.restored, config]

/-- A restored machine saves the bytes the saved one does, from Idle or from Paused (R850). -/
theorem save_restored {s t : State} (config : t.config = s.config) (live : t.sched.run ≠ .stopped)
    (held : t.sched.run = .running → t.sched.fault ≠ none) :
    save (t.restored s) = .ok (snapshotBytes s) := by
  refine save_eq_ok_iff.2 ⟨rfl, ?_, ?_⟩
  · show (if t.sched.fault.isSome then .paused else t.sched.run) = RunState.idle
      ∨ (if t.sched.fault.isSome then .paused else t.sched.run) = RunState.paused
    cases fault : t.sched.fault with
    | some f => exact .inr rfl
    | none =>
      cases run : t.sched.run with
      | idle => exact .inl rfl
      | paused => exact .inr rfl
      | running => exact absurd fault (held run)
      | stopped => exact absurd run live
  · show snapshotBytes { t.restored s with config := t.config } = snapshotBytes s
    rw [config]; rfl

/-- Settles O59: the bytes parse to the restored state, which has of the saved state all that the invariant and
a snapshot read. -/
theorem snapshotRoundTrip : Obligations.SnapshotRoundTrip := by
  intro s t bytes inv fits saved config count live held
  obtain ⟨-, -, rfl⟩ := save_eq_ok_iff.1 saved
  refine ⟨?loads, inv.congr config rfl rfl rfl rfl, save_restored config live held⟩
  rw [load_eq_parseSnapshot live held]
  exact parseSnapshot_snapshotBytes inv fits config count

end Sys2Proof.Machine
end

section
/-! Taking an interrupt and returning from it (R880, R882): the entry is two dummy reads at PC before the cycles
it shares with BRK, and RTI pulls what those cycles pushed. -/

namespace Sys2Proof.Machine

variable {s : State}

/-- The accesses and the CPU of an interrupt entry: two dummy reads, the NMI latch, then the exception with the
break bit 0 (R880). -/
theorem interruptEntry_completes (hp : s.production) (hc : s.canonical) (i : Interrupt) :
    Completes (interruptEntry i) s fun _ t => ∃ d e lo hi, ∀ ws,
      ws = [(stackAddr s.cpu.s, hiByte s.cpu.pc), (stackAddr (s.cpu.s - 1#8), loByte s.cpu.pc),
        (stackAddr (s.cpu.s - 2#8), s.cpu.pByte false)] →
      s.ReadsAfter ws (interruptVector i) lo ∧ s.ReadsAfter ws (interruptVector i + 1#16) hi
      ∧ Ran s ws [readRec s 0 .dummy s.cpu.pc d, readRec s 1 .dummy s.cpu.pc e,
          writeRec s 2 .stack (stackAddr s.cpu.s) (hiByte s.cpu.pc),
          writeRec s 3 .stack (stackAddr (s.cpu.s - 1#8)) (loByte s.cpu.pc),
          writeRec s 4 .stack (stackAddr (s.cpu.s - 2#8)) (s.cpu.pByte false),
          readRec s 5 .vector (interruptVector i) lo,
          readRec s 6 .vector (interruptVector i + 1#16) hi]
        { s.cpu with
          s := s.cpu.s - 3#8
          flagI := true
          pc := mkWord hi lo
          nmiPending := decide (i = .irq) && s.cpu.nmiPending } t := by
  have two : s.cpu.s - 1#8 - 1#8 = s.cpu.s - 2#8 := by bv_omega
  have three : s.cpu.s - 2#8 - 1#8 = s.cpu.s - 3#8 := by bv_omega
  refine ((Ran.refl hc).dummyPc hp).bind fun _ _ ⟨d, h1⟩ => (h1.dummyPc hp).bind fun _ _ ⟨e, h2⟩ => ?_
  refine (h2.updCpu _).bind fun _ _ h3 => ?_
  refine (h3.takeException hp false (interruptVector i)).mono fun _ _ ⟨lo, hi, h4⟩ =>
    ⟨d, e, lo, hi, fun ws hws => ?_⟩
  dsimp only at h4
  rw [two, three] at h4
  cases i with
  | nmi => exact h4 ws hws
  | irq => exact h4 ws hws

/-- Settles O34, by the accesses of the entry. -/
theorem interruptEntryTaken : Obligations.InterruptEntryTaken := by
  intro i s ws vec hp hc hws hvec
  obtain rfl : vec = interruptVector i := by cases i <;> exact hvec
  obtain ⟨⟨⟩, t, ht, d, e, lo, hi, taken⟩ := interruptEntry_completes hp hc i
  exact ⟨d, e, lo, hi, t, ht, taken ws hws⟩

/-- An interrupt entry leaves PC and the status byte on the stack, where the three bytes are distinct bytes of
RAM (R880). -/
theorem interruptEntry_leaves_pc_and_status {t : State} {i : Interrupt} (hp : s.production)
    (hc : s.canonical) (writable : ∀ k < 3, s.writable (stackAddr (s.cpu.s - BitVec.ofNat 8 k)))
    (apart : ∀ j < 3, ∀ k < 3, s.target (stackAddr (s.cpu.s - BitVec.ofNat 8 j))
      = s.target (stackAddr (s.cpu.s - BitVec.ofNat 8 k)) → j = k)
    (entry : interruptEntry i s = .ok () t) :
    t.bus.maps = s.bus.maps ∧ t.cpu.s = s.cpu.s - 3#8
      ∧ t.peek (stackAddr s.cpu.s) = hiByte s.cpu.pc
      ∧ t.peek (stackAddr (s.cpu.s - 1#8)) = loByte s.cpu.pc
      ∧ t.peek (stackAddr (s.cpu.s - 2#8)) = s.cpu.pByte false := by
  obtain ⟨⟨⟩, t', taken, _, _, lo, hi, taken_ran⟩ := interruptEntry_completes hp hc i
  obtain rfl : t' = t := (EStateM.Result.ok.inj (taken.symm.trans entry)).2
  obtain ⟨-, -, ran⟩ := taken_ran _ rfl
  have top := writable 0 (by decide)
  have topNotMiddle := mt (apart 0 (by decide) 1 (by decide)) (by decide)
  have topNotLast := mt (apart 0 (by decide) 2 (by decide)) (by decide)
  have middleNotLast := mt (apart 1 (by decide) 2 (by decide)) (by decide)
  rw [BitVec.sub_zero] at top topNotMiddle topNotLast
  have distinct : [(stackAddr s.cpu.s, hiByte s.cpu.pc), (stackAddr (s.cpu.s - 1#8), loByte s.cpu.pc),
      (stackAddr (s.cpu.s - 2#8), s.cpu.pByte false)].Pairwise fun x y => s.target x.1 ≠ s.target y.1 :=
    .cons (List.forall_mem_cons.2 ⟨topNotMiddle, List.forall_mem_singleton.2 topNotLast⟩)
      (List.pairwise_pair.2 middleNotLast)
  exact ⟨ran.frame.others.maps, congrArg Cpu.s ran.cpu, ran.frame.peek_of_mem distinct (by simp) top,
    ran.frame.peek_of_mem distinct (by simp) (writable 1 (by decide)),
    ran.frame.peek_of_mem distinct (by simp) (writable 2 (by decide))⟩

/-- Loading the status byte of `c` takes the six flags of `c`, whatever its break bit (R66). -/
theorem Cpu.setP_pByte (b : Bool) (c d : Cpu) : d.setP (c.pByte b) = { d with
    flagN := c.flagN
    flagV := c.flagV
    flagD := c.flagD
    flagI := c.flagI
    flagZ := c.flagZ
    flagC := c.flagC } := by
  obtain ⟨layout, -⟩ := statusByteLayout
  obtain ⟨bitN, bitV, -, -, bitD, bitI, bitZ, bitC⟩ := layout b c
  rw [Cpu.setP, bitN, bitV, bitD, bitI, bitZ, bitC]

/-- RTI from stack bytes in stores resumes with the flags and at the word that `peek` finds there (R537). -/
theorem returnInterrupt_resumes {pc : Word} {b : Bool} {c : Cpu} (hp : s.production) (hc : s.canonical)
    (status : s.plain (stackAddr (s.cpu.s + 1#8))) (low : s.plain (stackAddr (s.cpu.s + 2#8)))
    (high : s.plain (stackAddr (s.cpu.s + 3#8)))
    (statusByte : s.peek (stackAddr (s.cpu.s + 1#8)) = c.pByte b)
    (lowByte : s.peek (stackAddr (s.cpu.s + 2#8)) = loByte pc)
    (highByte : s.peek (stackAddr (s.cpu.s + 3#8)) = hiByte pc) :
    ∃ t, exec .rti s = .next t ∧ t.cpu = { s.cpu.setP (c.pByte b) with s := s.cpu.s + 3#8, pc := pc } := by
  obtain ⟨t, returned, _, _, p, lo, hi, readStatus, readLo, readHi, ran⟩ :=
    outcome_of_completes (returnInterrupt_completes hp hc)
  refine ⟨t, returned, ?_⟩
  rw [ran.cpu, (readStatus.peek status).trans statusByte, (readLo.peek low).trans lowByte,
    (readHi.peek high).trans highByte, mkWord_bytes]

/-- Settles O35: the entry leaves the status byte and PC where RTI pulls them. -/
theorem entryThenReturnResumes : Obligations.EntryThenReturnResumes := by
  intro i s t u hp hc writable apart entry hpu hcu maps stack peeks
  obtain ⟨entryMaps, entryStack, pushedHigh, pushedLow, pushedStatus⟩ :=
    interruptEntry_leaves_pc_and_status hp hc writable apart entry
  have top := writable 0 (by decide)
  have peekTop := peeks 0 (by decide)
  rw [BitVec.sub_zero] at top peekTop
  have sameMaps : u.bus.maps = s.bus.maps := maps.trans entryMaps
  have first : u.cpu.s + 1#8 = s.cpu.s - 2#8 := by rw [stack, entryStack]; bv_omega
  have second : u.cpu.s + 2#8 = s.cpu.s - 1#8 := by rw [stack, entryStack]; bv_omega
  have third : u.cpu.s + 3#8 = s.cpu.s := by rw [stack, entryStack]; bv_omega
  have resumed := returnInterrupt_resumes (pc := s.cpu.pc) (b := false) (c := s.cpu) hpu hcu
  rw [first, second, third, Cpu.setP_pByte] at resumed
  exact resumed ((writable 2 (by decide)).plain sameMaps) ((writable 1 (by decide)).plain sameMaps)
    (top.plain sameMaps) ((peeks 2 (by decide)).trans pushedStatus) ((peeks 1 (by decide)).trans pushedLow)
    (peekTop.trans pushedHigh)

end Sys2Proof.Machine
end

section
/-! The reference timer (R915 to R922): its registers and lines as the spec writes them, and its countdown. -/

namespace Sys2Proof.Machine

/-! ## Registers and lines -/

/-- The low byte of a word, as a truncation (R17). -/
theorem loByte_eq_setWidth (w : Word) : loByte w = w.setWidth 8 :=
  (BitVec.setWidth_eq_extractLsb' (by decide)).symm

/-- The high byte of a word, as a truncation after a shift (R17). -/
theorem hiByte_eq_setWidth (w : Word) : hiByte w = (w >>> 8).setWidth 8 := by
  ext i hi
  simp [hiByte]

/-- A conjunction of words is one of their bytes. -/
theorem mkWord_and (a b c d : Byte) : mkWord a b &&& mkWord c d = mkWord (a &&& c) (b &&& d) :=
  BitVec.and_append

/-- A disjunction of words is one of their bytes. -/
theorem mkWord_or (a b c d : Byte) : mkWord a b ||| mkWord c d = mkWord (a ||| c) (b ||| d) :=
  BitVec.or_append

/-- A byte as a word (R18). -/
theorem setWidth_eq_mkWord (v : Byte) : v.setWidth 16 = mkWord 0#8 v :=
  BitVec.eq_of_toNat_eq (by rw [toNat_mkWord, BitVec.toNat_setWidth, BitVec.toNat_ofNat]; omega)

/-- A byte as the high byte of a word. -/
theorem setWidth_shiftLeft_eq_mkWord (v : Byte) : v.setWidth 16 <<< 8 = mkWord v 0#8 :=
  BitVec.eq_of_toNat_eq (by
    rw [toNat_mkWord, BitVec.toNat_shiftLeft, BitVec.toNat_setWidth, BitVec.toNat_ofNat, Nat.shiftLeft_eq]
    omega)

/-- A word with its low byte replaced, by masks. -/
theorem mkWord_hiByte (w : Word) (v : Byte) :
    mkWord (hiByte w) v = (w &&& 0xFF00#16) ||| v.setWidth 16 := by
  have mask : 0xFF00#16 = mkWord (BitVec.allOnes 8) 0#8 := rfl
  conv_rhs => rw [← mkWord_bytes w, mask, mkWord_and, setWidth_eq_mkWord, mkWord_or]
  rw [BitVec.and_allOnes, BitVec.or_zero, BitVec.and_zero, BitVec.zero_or]

/-- A word with its high byte replaced, by masks. -/
theorem mkWord_loByte (w : Word) (v : Byte) :
    mkWord v (loByte w) = (w &&& 0x00FF#16) ||| (v.setWidth 16 <<< 8) := by
  have mask : 0x00FF#16 = mkWord 0#8 (BitVec.allOnes 8) := rfl
  conv_rhs => rw [← mkWord_bytes w, mask, mkWord_and, setWidth_shiftLeft_eq_mkWord, mkWord_or]
  rw [BitVec.and_allOnes, BitVec.or_zero, BitVec.and_zero, BitVec.zero_or]

/-- Settles O55: each register is a case of the read and of the write, in the bit operations of R916. -/
theorem timerRegisterMap : Obligations.TimerRegisterMap := fun t v =>
  ⟨congrArg (·, t) (loByte_eq_setWidth t.counter), congrArg (·, t) (hiByte_eq_setWidth t.counter), rfl, rfl,
    congrArg (fun latch => { t with latch }) (mkWord_hiByte t.latch v),
    congrArg (fun latch => { t with latch }) (mkWord_loByte t.latch v), rfl, rfl, rfl, rfl⟩

/-! ## The countdown -/

/-- The ticks of a timer are its cycles, one after the other (R702, R918). -/
theorem refTimerTick_eq_iterate (n : Nat) : ∀ t, refTimerTick n t = refTimerCycle^[n] t := by
  induction n with
  | zero => exact fun _ => rfl
  | succ n ih => exact fun t => ih (refTimerCycle t)

/-- Ticking `m` cycles and then `n` is ticking `m + n` (R702). -/
theorem refTimerTick_add (m n : Nat) (t : RefTimer) :
    refTimerTick (m + n) t = refTimerTick n (refTimerTick m t) := by
  simp only [refTimerTick_eq_iterate, Nat.add_comm m, Function.iterate_add_apply]

/-- The cycles a started timer counts to zero: its counter, or 65536 from 0 (R918). -/
def timerPeriod (t : RefTimer) : Nat := if t.counter = 0#16 then 65536 else t.counter.toNat

/-- A period is at least one cycle (R918). -/
theorem timerPeriod_pos (t : RefTimer) : 0 < timerPeriod t := by
  unfold timerPeriod
  split
  · decide
  · next nonzero => exact Nat.pos_of_ne_zero fun h => nonzero (BitVec.eq_of_toNat_eq h)

/-- A counter has counted to zero at the end of the period (R918). -/
theorem counter_sub_timerPeriod (t : RefTimer) : t.counter - BitVec.ofNat 16 (timerPeriod t) = 0#16 := by
  unfold timerPeriod
  split
  · next zero => rw [zero]; rfl
  · rw [BitVec.ofNat_toNat, BitVec.setWidth_eq, BitVec.sub_self]

/-- A counter is not zero within its period (R918). -/
theorem counter_sub_ne_zero {t : RefTimer} {n : Nat} (pos : 0 < n) (lt : n < timerPeriod t) :
    t.counter - BitVec.ofNat 16 n ≠ 0#16 := by
  unfold timerPeriod at lt
  split at lt <;> bv_omega

section
variable {t : RefTimer}

/-- A stopped timer does not change (R918). -/
theorem refTimerCycle_of_stopped (stopped : timerStart t = false) : refTimerCycle t = t :=
  if_neg (Bool.eq_false_iff.1 stopped)

/-- A cycle that does not bring the counter to zero takes one from it (R918). -/
theorem refTimerCycle_of_ne_zero (started : timerStart t = true) {c : Word} (nonzero : c - 1#16 ≠ 0#16) :
    refTimerCycle { t with counter := c } = { t with counter := c - 1#16 } :=
  (if_pos started).trans (if_neg nonzero)

/-- A cycle that brings the counter to zero in continuous mode reloads the latch (R918). -/
theorem refTimerCycle_of_zero_continuous (started : timerStart t = true) (continuous : timerOneShot t = false)
    {c : Word} (zero : c - 1#16 = 0#16) :
    refTimerCycle { t with counter := c } = { t with counter := t.latch, evt := true } :=
  (if_pos started).trans ((if_pos zero).trans (if_neg (Bool.eq_false_iff.1 continuous)))

/-- A cycle that brings the counter to zero in one-shot mode clears START (R918). -/
theorem refTimerCycle_of_zero_oneShot (started : timerStart t = true) (oneShot : timerOneShot t = true)
    {c : Word} (zero : c - 1#16 = 0#16) : refTimerCycle { t with counter := c }
      = { t with counter := 0#16, evt := true, ctrl := t.ctrl &&& 0xFE#8 } := by
  rw [← zero]
  exact (if_pos started).trans ((if_pos zero).trans (if_pos oneShot))

/-- A stopped timer never changes (R918). -/
theorem refTimerTick_of_stopped (stopped : timerStart t = false) (n : Nat) : refTimerTick n t = t := by
  rw [refTimerTick_eq_iterate, Function.iterate_fixed (refTimerCycle_of_stopped stopped)]

/-- Within its period a started timer only counts down (R918). -/
theorem refTimerTick_of_lt_period (started : timerStart t = true) {n : Nat} (lt : n < timerPeriod t) :
    refTimerTick n t = { t with counter := t.counter - BitVec.ofNat 16 n } := by
  rw [refTimerTick_eq_iterate]
  induction n with
  | zero => rw [BitVec.sub_zero]; rfl
  | succ n ih =>
    have next : t.counter - BitVec.ofNat 16 n - 1#16 = t.counter - BitVec.ofNat 16 (n + 1) := by bv_omega
    have nonzero := counter_sub_ne_zero n.succ_pos lt
    rw [← next] at nonzero
    rw [Function.iterate_succ_apply', ih (Nat.lt_of_succ_lt lt), refTimerCycle_of_ne_zero started nonzero, next]

/-- The last cycle of a period is one of a timer that counts to zero in it, and has the rest of `t` (R918). -/
theorem refTimerTick_period (started : timerStart t = true) : ∃ c, c - 1#16 = 0#16
    ∧ refTimerTick (timerPeriod t) t = refTimerCycle { t with counter := c } := by
  obtain ⟨n, hn⟩ := Nat.exists_eq_add_one.2 (timerPeriod_pos t)
  refine ⟨t.counter - BitVec.ofNat 16 n, ?_, ?_⟩
  · have zero := counter_sub_timerPeriod t
    rw [hn] at zero
    bv_omega
  · rw [hn, refTimerTick_eq_iterate, Function.iterate_succ_apply', ← refTimerTick_eq_iterate,
      refTimerTick_of_lt_period started (hn ▸ n.lt_succ_self)]

end

/-- The tick of a reference timer by `n` cycles does these to it and nothing else (R702, R918). -/
theorem tickChip_refTimer {s : State} {i : Nat} {t : RefTimer} (h : s.chips[i]? = some (.refTimer t))
    (granted : Bool) (start n : Nat) :
    tickChip i granted start n s = .ok () (s.setChip i (.refTimer (refTimerTick n t))) := by
  have cycle : ∀ x start u, u = s.setChip i (.refTimer x) →
      Completes (chipCycle i granted start) u fun _ v => v = s.setChip i (.refTimer (refTimerCycle x)) := by
    rintro x start _ rfl
    have here : (s.setChip i (.refTimer x)).chips[i]? = some (.refTimer x) := by
      rw [State.setChip_chips, List.getElem?_set_self', h]; rfl
    rw [Completes, chipCycle, getState_bind, here]
    exact Completes.updState (by rw [State.setChip, State.setChip_chips, List.set_set]; rfl)
  have same : s = s.setChip i (.refTimer t) := by
    obtain ⟨inside, here⟩ := List.getElem?_eq_some_iff.1 h
    rw [State.setChip, ← here, List.set_getElem_self]
  obtain ⟨⟨⟩, _, ticked, rfl⟩ := tickChip_iterate cycle n start same
  rw [ticked, refTimerTick_eq_iterate]

/-- Settles O54: a started timer counts down to the last cycle of its period, which reloads or stops it. -/
theorem timerExpiresEachPeriod : Obligations.TimerExpiresEachPeriod := by
  refine ⟨?_, fun s i start n granted t h => tickChip_refTimer h granted start n⟩
  intro t p hp
  obtain rfl : p = timerPeriod t := hp
  refine ⟨refTimerTick_of_stopped, fun started => ?_⟩
  obtain ⟨c, zero, last⟩ := refTimerTick_period started
  refine ⟨fun n => refTimerTick_of_lt_period started, ?continuous, ?oneShot⟩
  case continuous =>
    exact fun continuous => last.trans (refTimerCycle_of_zero_continuous started continuous zero)
  case oneShot =>
    intro oneShot n
    have stopped : timerStart { t with counter := 0#16, evt := true, ctrl := t.ctrl &&& 0xFE#8 } = false := by
      simp [timerStart]
    rw [refTimerTick_add, last, refTimerCycle_of_zero_oneShot started oneShot zero,
      refTimerTick_of_stopped stopped]

end Sys2Proof.Machine
end
